-- ==== Sys2Proof/Word.lean ====
section
/-! DEFINITION. The fixed-width words of the block: a byte of a frame or of the event trace, the 2-bit phase
code of a knob, the 4-bit transition index. Widths that are parameters (`SNAP_W`, `PHASE_W`, `SAMPLE_BITS`,
`BUS_ID_W`) are not types: a value of such a width is a `Nat` (or an `Int`) with its bound stated in
`Safety.lean`, because the configuration is an argument of the model (R8, log entry 2). -/

namespace Sys2Proof

/-- A byte: 8 bits (R10). -/
abbrev Byte := BitVec 8

/-- A knob's phase code `{B, A}`: bit 1 is B, bit 0 is A (R100). -/
abbrev PhaseCode := BitVec 2

/-- A transition index `t = {p, c}`: `t[3:2]` the previous code, `t[1:0]` the new one (R101). -/
abbrev TransIndex := BitVec 4

end Sys2Proof
end

