-- ==== Sys2Proof/Config.lean ====
section
/-! DEFINITION. The implementation parameters of R8: one field each, fixed for a run (R47). The configuration
stands in the machine's state as a field that no step writes, so a statement about every state is a statement
about every configuration, the OPEN parameters included (log entry 1). `Machine/Legal.lean` holds the
constraints of R9, R116 and R141. -/

namespace Sys2Proof

/-- The class of a (previous, current) phase-code pair (R16, R141). -/
inductive QdClass where
  | hold
  | inc
  | dec
  | skip
deriving DecidableEq, Repr

/-- The parameters of R8, in the order of its table. -/
structure Config where
  /-- `SNAP_W`: width of an InputSnapshot. -/
  snapW : Nat
  /-- `N_ROWS`: matrix rows. -/
  nRows : Nat
  /-- `N_COLS`: matrix columns. -/
  nCols : Nat
  /-- `N_NOTE_KEYS`: snapshot bits that are note keys. -/
  nNoteKeys : Nat
  /-- `ACTIVE_LOW`: the pressed level is 0. -/
  activeLow : Bool
  /-- `N_KNOBS`: decoder instances. -/
  nKnobs : Nat
  /-- `QD_A_BIT[k]`: the snapshot bit of knob k's phase A. -/
  qdABit : List Nat
  /-- `QD_B_BIT[k]`: the snapshot bit of knob k's phase B. -/
  qdBBit : List Nat
  /-- `VOL_KNOB`: the knob whose rotation sets the volume shift. -/
  volKnob : Nat
  /-- `QD_CLASS[t]`: the class of each of the 16 transition indices, index 0 first (R141). -/
  qdClass : List QdClass
  /-- `QD_SKIP_WEIGHT`: rotation units a skip applies. -/
  qdSkipWeight : Nat
  /-- `ROT_MAX`: upper clamp of a rotation. -/
  rotMax : Nat
  /-- `MAX_VOLUME`: minuend of the volume shift. -/
  maxVolume : Nat
  /-- `PHASE_W`: width of the phase accumulator and of a step size. -/
  phaseW : Nat
  /-- `SAMPLE_BITS`: high-order phase bits taken as the sample. -/
  sampleBits : Nat
  /-- `STEP_TABLE[0..11]`: the step sizes, one a semitone (R76). -/
  stepTable : List Nat
  /-- `TXQ_CAP`: transmit FIFO capacity in frames. -/
  txqCap : Nat
  /-- `RXQ_CAP`: receive FIFO capacity in frames. -/
  rxqCap : Nat
  /-- `MBOX_N`: transmit mailboxes. -/
  mboxN : Nat
  /-- `FRAME_BYTES`: payload bytes per frame (R8; what it does to the layout of R104 is log entry 14). -/
  frameBytes : Nat
  /-- `OCTAVE_TX`: the octave byte the scanner transmits (OPEN). -/
  octaveTx : Byte
  /-- `BUS_ID`: the frame identifier (OPEN). -/
  busId : Nat
  /-- `BUS_ID_W`: its width (OPEN). -/
  busIdW : Nat
  /-- `LOOPBACK`: whether the node's own frames arrive at its receive event (OPEN, R313). -/
  loopback : Bool
  /-- `INIT_OK`: whether start-up resource creation succeeds (OPEN, R413). -/
  initOk : Bool
  /-- `SCAN_PERIOD` in milliseconds: non-normative, no rule reads it (R430, R432). -/
  scanPeriodMs : Nat
  /-- `SAMPLE_RATE` in hertz: non-normative (R430, R432). -/
  sampleRateHz : Nat
  /-- `DISPLAY_PERIOD` in milliseconds: non-normative (R430, R432). -/
  displayPeriodMs : Nat
deriving DecidableEq, Repr

/-- The default `STEP_TABLE` (R115, `PHASE_W = 32`). -/
def defaultStepTable : List Nat :=
  [51076057, 54113197, 57330935, 60740010, 64351799, 68178356,
   72232452, 76527617, 81078186, 85899346, 91007187, 96418756]

/-- The default `QD_CLASS` (R142): the forward cycle 00, 01, 11, 10 is INC, its reverse DEC, every two-bit
edge SKIP. -/
def defaultQdClass : List QdClass :=
  [.hold, .inc, .dec, .skip,
   .dec, .hold, .skip, .inc,
   .inc, .skip, .hold, .dec,
   .skip, .dec, .inc, .hold]

/-- The value R8 gives each parameter. The OPEN ones take the values of the spec's test vectors (95): a
DESIGN CHOICE for the one run from `State.reset`, on which no statement rests (log entry 3). -/
def Config.default : Config where
  snapW := 32
  nRows := 8
  nCols := 4
  nNoteKeys := 12
  activeLow := true
  nKnobs := 1
  qdABit := [12]
  qdBBit := [13]
  volKnob := 0
  qdClass := defaultQdClass
  qdSkipWeight := 1
  rotMax := 8
  maxVolume := 8
  phaseW := 32
  sampleBits := 8
  stepTable := defaultStepTable
  txqCap := 36
  rxqCap := 36
  mboxN := 3
  frameBytes := 8
  octaveTx := 0x04#8
  busId := 0x123
  busIdW := 11
  loopback := false
  initOk := true
  scanPeriodMs := 20
  sampleRateHz := 22000
  displayPeriodMs := 100

end Sys2Proof
end

