-- ==== Sys2Proof/Syntax.lean ====
section
/-! DEFINITION. The operations of the block: one constructor for each row of `spec/opcode_table.json`. The ten
events of R120 and the six reserved codes of R121 are what a trace (R125) is made of; the 16 decoder
transitions (R101), the two frame kinds (R105) and the three sub-operations (TX_ENQ, RX_DEQ, QD_STEP) are rows
of the table with no event code of their own: each is the step of the event that performs it, named by what it does
there, but for RX_DEQ, the consumer's port (log entry 8). -/

namespace Sys2Proof

/-- A frame is the pair `(id, data)` (R104): `id` is `BUS_ID_W` bits wide, `data` is the `FRAME_BYTES` payload bytes
`[kind, octave, note, reserved ...]`, `data[0]` first (R78). -/
structure Frame where
  id : Nat
  data : List Byte
deriving DecidableEq, Repr

/-- Whose frame arrives at RX_FRAME (R313, log entry 10): another node's, which may come at any time (R347), or one
this node has itself emitted, which only `LOOPBACK` lets arrive. -/
inductive Origin where
  | peer
  | own
deriving DecidableEq, Repr

/-- What arrives at RX_FRAME beside the payload: whose frame it is, and its identifier (R310, R313). -/
structure Arrival where
  origin : Origin
  id : Nat
deriving DecidableEq, Repr

/-- One decoder update: knob `knob`'s, in the SCAN_CAPTURE of the matrix levels `levels` (R140, log entry 8). -/
structure KnobUpdate where
  knob : Nat
  levels : Nat
deriving DecidableEq, Repr

/-- The seven agents of R16; the last two belong to the environment (R340, R345). -/
inductive Agent where
  | scanner
  | sampleTimer
  | txEngine
  | txComplete
  | rxEvent
  | messageDecoder
  | display
deriving DecidableEq, Repr

/-- The operations, one constructor for each row of the opcode table, in the table's order. -/
inductive Instr where
  /-- SCAN_CAPTURE (0x0, R181): the operand is the matrix levels, written as a snapshot. -/
  | scanCapture (m : Nat)
  /-- SCAN_EMIT (0x1, R184). -/
  | scanEmit
  /-- SCAN_COMMIT (0x2, R188). -/
  | scanCommit
  /-- SAMPLE_TICK (0x3, R230). -/
  | sampleTick
  /-- TX_DEQ (0x4, R274). -/
  | txDeq
  /-- TX_ISSUE (0x5, R276). -/
  | txIssue
  /-- TX_DONE (0x6, R278). -/
  | txDone
  /-- RX_FRAME (0x7, R310): the identifier, with whose frame it is (R313), and the payload bytes. A payload of another
  length than `FRAME_BYTES` is an input the spec names (R110, R370 code 5). -/
  | rxFrame (a : Arrival) (data : List Byte)
  /-- MD_STEP (0x8, R341). -/
  | mdStep
  /-- DISPLAY_READ (0x9, R345). -/
  | displayRead
  /-- Reserved event code 0xA (R121); that a reserved code has no operand is log entry 7. -/
  | reservedA
  /-- Reserved event code 0xB (R121). -/
  | reservedB
  /-- Reserved event code 0xC (R121). -/
  | reservedC
  /-- Reserved event code 0xD (R121). -/
  | reservedD
  /-- Reserved event code 0xE (R121). -/
  | reservedE
  /-- Reserved event code 0xF (R121). -/
  | reservedF
  /-- Decoder transition 00 to 00 (t = 0x0, R101). -/
  | qdT0 (u : KnobUpdate)
  /-- Decoder transition 00 to 01 (t = 0x1). -/
  | qdT1 (u : KnobUpdate)
  /-- Decoder transition 00 to 10 (t = 0x2). -/
  | qdT2 (u : KnobUpdate)
  /-- Decoder transition 00 to 11 (t = 0x3). -/
  | qdT3 (u : KnobUpdate)
  /-- Decoder transition 01 to 00 (t = 0x4). -/
  | qdT4 (u : KnobUpdate)
  /-- Decoder transition 01 to 01 (t = 0x5). -/
  | qdT5 (u : KnobUpdate)
  /-- Decoder transition 01 to 10 (t = 0x6). -/
  | qdT6 (u : KnobUpdate)
  /-- Decoder transition 01 to 11 (t = 0x7). -/
  | qdT7 (u : KnobUpdate)
  /-- Decoder transition 10 to 00 (t = 0x8). -/
  | qdT8 (u : KnobUpdate)
  /-- Decoder transition 10 to 01 (t = 0x9). -/
  | qdT9 (u : KnobUpdate)
  /-- Decoder transition 10 to 10 (t = 0xA). -/
  | qdTA (u : KnobUpdate)
  /-- Decoder transition 10 to 11 (t = 0xB). -/
  | qdTB (u : KnobUpdate)
  /-- Decoder transition 11 to 00 (t = 0xC). -/
  | qdTC (u : KnobUpdate)
  /-- Decoder transition 11 to 01 (t = 0xD). -/
  | qdTD (u : KnobUpdate)
  /-- Decoder transition 11 to 10 (t = 0xE). -/
  | qdTE (u : KnobUpdate)
  /-- Decoder transition 11 to 11 (t = 0xF). -/
  | qdTF (u : KnobUpdate)
  /-- The Press frame that MD_STEP decodes (kind 0x50, R341): payload bytes 1 to 6, and those from
  `data[7]` on, one with `FRAME_BYTES = 8`. -/
  | framePress (octave note r3 r4 r5 r6 : Byte) (tail : List Byte)
  /-- The Release frame that MD_STEP decodes (kind 0x52, R341): payload bytes 1 to 6, and those
  from `data[7]` on. -/
  | frameRelease (octave note r3 r4 r5 r6 : Byte) (tail : List Byte)
  /-- TX_ENQ (R271): the push of the frame into the transmit FIFO, made by SCAN_EMIT alone (R270, log entry 8). -/
  | txEnq (f : Frame)
  /-- RX_DEQ (R314): pop the receive FIFO for the consumer; MD_STEP's first action. -/
  | rxDeq
  /-- QD_STEP (R143): the decoder update with the new phase code `c`, made by SCAN_CAPTURE alone (R140). -/
  | qdStep (u : KnobUpdate) (c : PhaseCode)
deriving DecidableEq, Repr

/-- The agent that takes an operation (R120; a sub-operation belongs to the agent that calls it). A reserved
code selects no step and so no agent (R121). -/
def Instr.agent : Instr → Option Agent
  | .scanCapture _ => some .scanner
  | .scanEmit => some .scanner
  | .scanCommit => some .scanner
  | .sampleTick => some .sampleTimer
  | .txDeq => some .txEngine
  | .txIssue => some .txEngine
  | .txDone => some .txComplete
  | .rxFrame _ _ => some .rxEvent
  | .mdStep => some .messageDecoder
  | .displayRead => some .display
  | .reservedA => none
  | .reservedB => none
  | .reservedC => none
  | .reservedD => none
  | .reservedE => none
  | .reservedF => none
  | .qdT0 _ => some .scanner
  | .qdT1 _ => some .scanner
  | .qdT2 _ => some .scanner
  | .qdT3 _ => some .scanner
  | .qdT4 _ => some .scanner
  | .qdT5 _ => some .scanner
  | .qdT6 _ => some .scanner
  | .qdT7 _ => some .scanner
  | .qdT8 _ => some .scanner
  | .qdT9 _ => some .scanner
  | .qdTA _ => some .scanner
  | .qdTB _ => some .scanner
  | .qdTC _ => some .scanner
  | .qdTD _ => some .scanner
  | .qdTE _ => some .scanner
  | .qdTF _ => some .scanner
  | .framePress _ _ _ _ _ _ _ => some .messageDecoder
  | .frameRelease _ _ _ _ _ _ _ => some .messageDecoder
  | .txEnq _ => some .scanner
  | .rxDeq => some .messageDecoder
  | .qdStep _ _ => some .scanner

/-- The 16 transition rows as data: the update, the previous and the new phase code. -/
def Instr.transition : Instr → Option (KnobUpdate × PhaseCode × PhaseCode)
  | .qdT0 u => some (u, 0b00#2, 0b00#2)
  | .qdT1 u => some (u, 0b00#2, 0b01#2)
  | .qdT2 u => some (u, 0b00#2, 0b10#2)
  | .qdT3 u => some (u, 0b00#2, 0b11#2)
  | .qdT4 u => some (u, 0b01#2, 0b00#2)
  | .qdT5 u => some (u, 0b01#2, 0b01#2)
  | .qdT6 u => some (u, 0b01#2, 0b10#2)
  | .qdT7 u => some (u, 0b01#2, 0b11#2)
  | .qdT8 u => some (u, 0b10#2, 0b00#2)
  | .qdT9 u => some (u, 0b10#2, 0b01#2)
  | .qdTA u => some (u, 0b10#2, 0b10#2)
  | .qdTB u => some (u, 0b10#2, 0b11#2)
  | .qdTC u => some (u, 0b11#2, 0b00#2)
  | .qdTD u => some (u, 0b11#2, 0b01#2)
  | .qdTE u => some (u, 0b11#2, 0b10#2)
  | .qdTF u => some (u, 0b11#2, 0b11#2)
  | .scanCapture _ => none
  | .scanEmit => none
  | .scanCommit => none
  | .sampleTick => none
  | .txDeq => none
  | .txIssue => none
  | .txDone => none
  | .rxFrame _ _ => none
  | .mdStep => none
  | .displayRead => none
  | .reservedA => none
  | .reservedB => none
  | .reservedC => none
  | .reservedD => none
  | .reservedE => none
  | .reservedF => none
  | .framePress _ _ _ _ _ _ _ => none
  | .frameRelease _ _ _ _ _ _ _ => none
  | .txEnq _ => none
  | .rxDeq => none
  | .qdStep _ _ => none

end Sys2Proof
end

