-- ==== Sys2Proof/WellFormed.lean ====
section
/-! DEFINITION. Which instructions a configuration admits: every operand lies in the width or range the spec
gives it (R104, R120, R122, R143). An RX_FRAME payload of another length than `FRAME_BYTES` is well-formed here: it
is an input the spec names, with the outcome it gives (R110, R370 code 5). -/

namespace Sys2Proof

/-- The width of the length operand of an RX_FRAME payload in the trace layout: whole bytes, enough for `FRAME_BYTES`
(`Decode.lean`, log entry 7). -/
def lenW (c : Config) : Nat := 8 * ((c.frameBytes.log2 + 8) / 8)

/-- The knob exists (R143) and the levels are a snapshot (R120). -/
def KnobUpdate.wf (c : Config) (u : KnobUpdate) : Bool :=
  decide (u.knob < c.nKnobs) && decide (u.levels < 2 ^ c.snapW)

/-- Every operand of the instruction is in its range under the configuration. -/
def Instr.wf (c : Config) : Instr → Bool
  | .scanCapture m => decide (m < 2 ^ c.snapW)
  | .scanEmit => true
  | .scanCommit => true
  | .sampleTick => true
  | .txDeq => true
  | .txIssue => true
  | .txDone => true
  | .rxFrame a data => decide (a.id < 2 ^ c.busIdW) && decide (data.length < 2 ^ lenW c)
  | .mdStep => true
  | .displayRead => true
  | .reservedA => true
  | .reservedB => true
  | .reservedC => true
  | .reservedD => true
  | .reservedE => true
  | .reservedF => true
  | .qdT0 u => u.wf c
  | .qdT1 u => u.wf c
  | .qdT2 u => u.wf c
  | .qdT3 u => u.wf c
  | .qdT4 u => u.wf c
  | .qdT5 u => u.wf c
  | .qdT6 u => u.wf c
  | .qdT7 u => u.wf c
  | .qdT8 u => u.wf c
  | .qdT9 u => u.wf c
  | .qdTA u => u.wf c
  | .qdTB u => u.wf c
  | .qdTC u => u.wf c
  | .qdTD u => u.wf c
  | .qdTE u => u.wf c
  | .qdTF u => u.wf c
  | .framePress _ _ _ _ _ _ tail => tail.length == c.frameBytes - 7
  | .frameRelease _ _ _ _ _ _ tail => tail.length == c.frameBytes - 7
  | .txEnq f => decide (f.id < 2 ^ c.busIdW) && f.data.length == c.frameBytes
  | .rxDeq => true
  | .qdStep u _ => u.wf c

end Sys2Proof
end

