-- ==== Sys2Proof/Decode.lean ====
section
/-! DEFINITION. The machine form of a trace line (R125): one byte that names the operation, then its operands
(R120, R122). The low nibble of the first byte is the opcode table's own bits for the row: the event code of
R120, the transition index of R101, or the sub-operation's bits; the two frame kinds are their whole byte
(R105). The table gives rows of different formats the same bits, so the high nibble says which format is meant:
0 an event, 1 a decoder transition, 2 a sub-operation, 3 the arrival of an own frame (R313), 5 a frame payload. That
high nibble, and the layout of the operands (each in the least whole number of bytes, the least significant byte
first), are the model's (DESIGN CHOICE, log entry 7); the hardware has no such word (R120). -/

namespace Sys2Proof

/-! ### Byte order and widths -/

/-- The number read from bytes, the least significant first. -/
def leNat : List Byte → Nat
  | [] => 0
  | b :: bs => b.toNat + 256 * leNat bs

/-- `n` bytes of a number, the least significant first. -/
def leBytes : Nat → Nat → List Byte
  | 0, _ => []
  | n + 1, v => BitVec.ofNat 8 v :: leBytes n (v / 256)

/-- How many bytes an operand of `w` bits takes. -/
def opBytes (w : Nat) : Nat := (w + 7) / 8

/-- The width of a knob operand: enough bits for every `k < N_KNOBS`. -/
def knobW (c : Config) : Nat := c.nKnobs.log2 + 1

/-! ### Decoding -/

/-- Why bytes are no instruction, by name. -/
inductive DecodeError where
  /-- The first byte names no row of the opcode table. -/
  | undefinedWord (b : Byte)
  /-- The bytes end inside an instruction's operands. -/
  | truncated
  /-- An operand has a bit above its width, or names a knob the configuration does not have. -/
  | operandRange
deriving DecidableEq, Repr

/-- What bytes decode to: an instruction with the bytes after it, nothing where there are no bytes, or a
rejection by name. -/
inductive Decoded where
  | instr (i : Instr) (rest : List Byte)
  | empty
  | reject (e : DecodeError)
deriving DecidableEq, Repr

/-- The first `n` bytes and the rest; none where there are fewer. -/
def splitBytes : Nat → List Byte → Option (List Byte × List Byte)
  | 0, bs => some ([], bs)
  | _ + 1, [] => none
  | n + 1, b :: bs => (splitBytes n bs).map fun p => (b :: p.1, p.2)

/-- Read an operand of `w` bits and go on with it. -/
def takeBits (w : Nat) (bs : List Byte) (go : Nat → List Byte → Decoded) : Decoded :=
  match splitBytes (opBytes w) bs with
  | none => .reject .truncated
  | some p => if leNat p.1 < 2 ^ w then go (leNat p.1) p.2 else .reject .operandRange

/-- Read a knob number and go on with it: `0 ≤ k < N_KNOBS` (R143). -/
def takeKnob (c : Config) (bs : List Byte) (go : Nat → List Byte → Decoded) : Decoded :=
  takeBits (knobW c) bs fun k r => if k < c.nKnobs then go k r else .reject .operandRange

/-- Read the operands of a decoder update: the knob, then the matrix levels of the capture that makes it. -/
def takeUpdate (c : Config) (bs : List Byte) (go : KnobUpdate → List Byte → Decoded) : Decoded :=
  takeKnob c bs fun k r => takeBits c.snapW r fun m r => go ⟨k, m⟩ r

/-- The length operand of a payload of `n` bytes, and the number of bytes a length operand announces: `FRAME_BYTES`
minus the one is the other, modulo `2 ^ lenW`, so that 0 announces a frame of legal length (R8, R104). -/
def lengthCode (c : Config) (n : Nat) : Nat :=
  if n ≤ c.frameBytes then c.frameBytes - n else c.frameBytes + 2 ^ lenW c - n

/-- Read `n` payload bytes and go on with them. -/
def takeBytes (n : Nat) (bs : List Byte) (go : List Byte → List Byte → Decoded) : Decoded :=
  match splitBytes n bs with
  | none => .reject .truncated
  | some p => go p.1 p.2

/-- Read the operands of an RX_FRAME: the identifier, the length operand and that many payload bytes. -/
def takeArrival (c : Config) (o : Origin) (bs : List Byte) : Decoded :=
  takeBits c.busIdW bs fun id r => takeBits (lenW c) r fun l r =>
    takeBytes (lengthCode c l) r fun data r => .instr (.rxFrame ⟨o, id⟩ data) r

/-- Read the payload bytes after a frame kind. -/
def takeBody (c : Config) (bs : List Byte)
    (go : Byte → Byte → Byte → Byte → Byte → Byte → List Byte → List Byte → Decoded) : Decoded :=
  match bs with
  | o :: n :: r3 :: r4 :: r5 :: r6 :: r => takeBytes (c.frameBytes - 7) r (go o n r3 r4 r5 r6)
  | _ => .reject .truncated

/-- The instruction whose first byte is `b`, its operands read from the bytes after it. A reserved code takes no operand
byte, so what follows it is read as the next event: R120's table gives it 'any' operands, R122 none, and the model
follows R122 (DESIGN CHOICE, log entry 7). -/
def decodeWord (c : Config) (b : Byte) (bs : List Byte) : Decoded :=
  match b.toNat with
  | 0x00 => takeBits c.snapW bs fun m r => .instr (.scanCapture m) r
  | 0x01 => .instr .scanEmit bs
  | 0x02 => .instr .scanCommit bs
  | 0x03 => .instr .sampleTick bs
  | 0x04 => .instr .txDeq bs
  | 0x05 => .instr .txIssue bs
  | 0x06 => .instr .txDone bs
  | 0x07 => takeArrival c .peer bs
  | 0x08 => .instr .mdStep bs
  | 0x09 => .instr .displayRead bs
  | 0x0A => .instr .reservedA bs
  | 0x0B => .instr .reservedB bs
  | 0x0C => .instr .reservedC bs
  | 0x0D => .instr .reservedD bs
  | 0x0E => .instr .reservedE bs
  | 0x0F => .instr .reservedF bs
  | 0x10 => takeUpdate c bs fun u r => .instr (.qdT0 u) r
  | 0x11 => takeUpdate c bs fun u r => .instr (.qdT1 u) r
  | 0x12 => takeUpdate c bs fun u r => .instr (.qdT2 u) r
  | 0x13 => takeUpdate c bs fun u r => .instr (.qdT3 u) r
  | 0x14 => takeUpdate c bs fun u r => .instr (.qdT4 u) r
  | 0x15 => takeUpdate c bs fun u r => .instr (.qdT5 u) r
  | 0x16 => takeUpdate c bs fun u r => .instr (.qdT6 u) r
  | 0x17 => takeUpdate c bs fun u r => .instr (.qdT7 u) r
  | 0x18 => takeUpdate c bs fun u r => .instr (.qdT8 u) r
  | 0x19 => takeUpdate c bs fun u r => .instr (.qdT9 u) r
  | 0x1A => takeUpdate c bs fun u r => .instr (.qdTA u) r
  | 0x1B => takeUpdate c bs fun u r => .instr (.qdTB u) r
  | 0x1C => takeUpdate c bs fun u r => .instr (.qdTC u) r
  | 0x1D => takeUpdate c bs fun u r => .instr (.qdTD u) r
  | 0x1E => takeUpdate c bs fun u r => .instr (.qdTE u) r
  | 0x1F => takeUpdate c bs fun u r => .instr (.qdTF u) r
  | 0x20 => takeUpdate c bs fun u r => takeBits 2 r fun v r => .instr (.qdStep u (BitVec.ofNat 2 v)) r
  | 0x21 => takeBits c.busIdW bs fun id r => takeBytes c.frameBytes r fun data r => .instr (.txEnq ⟨id, data⟩) r
  | 0x28 => .instr .rxDeq bs
  | 0x37 => takeArrival c .own bs
  | 0x50 => takeBody c bs fun o n r3 r4 r5 r6 l r => .instr (.framePress o n r3 r4 r5 r6 l) r
  | 0x52 => takeBody c bs fun o n r3 r4 r5 r6 l r => .instr (.frameRelease o n r3 r4 r5 r6 l) r
  | _ => .reject (.undefinedWord b)

/-- The first instruction of a byte sequence; total on any bytes. -/
def decode (c : Config) : List Byte → Decoded
  | [] => .empty
  | b :: bs => decodeWord c b bs

/-! ### Encoding -/

/-- An operand of `w` bits as bytes. -/
def putBits (w v : Nat) : List Byte := leBytes (opBytes w) v

/-- The operands of a decoder update as bytes. -/
def putUpdate (c : Config) (u : KnobUpdate) : List Byte := putBits (knobW c) u.knob ++ putBits c.snapW u.levels

/-- The first byte of an RX_FRAME: the event code 0x7, under the nibble of its origin (R313). -/
def Origin.code : Origin → Byte
  | .peer => 0x07#8
  | .own => 0x37#8

/-- The bytes of an instruction. -/
def encode (c : Config) : Instr → List Byte
  | .scanCapture m => 0x00#8 :: putBits c.snapW m
  | .scanEmit => [0x01#8]
  | .scanCommit => [0x02#8]
  | .sampleTick => [0x03#8]
  | .txDeq => [0x04#8]
  | .txIssue => [0x05#8]
  | .txDone => [0x06#8]
  | .rxFrame a data => a.origin.code :: (putBits c.busIdW a.id ++ (putBits (lenW c) (lengthCode c data.length) ++ data))
  | .mdStep => [0x08#8]
  | .displayRead => [0x09#8]
  | .reservedA => [0x0A#8]
  | .reservedB => [0x0B#8]
  | .reservedC => [0x0C#8]
  | .reservedD => [0x0D#8]
  | .reservedE => [0x0E#8]
  | .reservedF => [0x0F#8]
  | .qdT0 u => 0x10#8 :: putUpdate c u
  | .qdT1 u => 0x11#8 :: putUpdate c u
  | .qdT2 u => 0x12#8 :: putUpdate c u
  | .qdT3 u => 0x13#8 :: putUpdate c u
  | .qdT4 u => 0x14#8 :: putUpdate c u
  | .qdT5 u => 0x15#8 :: putUpdate c u
  | .qdT6 u => 0x16#8 :: putUpdate c u
  | .qdT7 u => 0x17#8 :: putUpdate c u
  | .qdT8 u => 0x18#8 :: putUpdate c u
  | .qdT9 u => 0x19#8 :: putUpdate c u
  | .qdTA u => 0x1A#8 :: putUpdate c u
  | .qdTB u => 0x1B#8 :: putUpdate c u
  | .qdTC u => 0x1C#8 :: putUpdate c u
  | .qdTD u => 0x1D#8 :: putUpdate c u
  | .qdTE u => 0x1E#8 :: putUpdate c u
  | .qdTF u => 0x1F#8 :: putUpdate c u
  | .framePress o n r3 r4 r5 r6 l => 0x50#8 :: o :: n :: r3 :: r4 :: r5 :: r6 :: l
  | .frameRelease o n r3 r4 r5 r6 l => 0x52#8 :: o :: n :: r3 :: r4 :: r5 :: r6 :: l
  | .txEnq f => 0x21#8 :: (putBits c.busIdW f.id ++ f.data)
  | .rxDeq => [0x28#8]
  | .qdStep u v => 0x20#8 :: (putUpdate c u ++ putBits 2 v.toNat)

/-- No well-formed instruction is longer than this many bytes. -/
def maxLen (c : Config) : Nat :=
  opBytes c.snapW + opBytes c.busIdW + opBytes (knobW c) + opBytes (lenW c) + 2 ^ lenW c + 10

/-- An instruction word as the trace stores it: `nbits` bits in whole bytes, the least significant first, with
zeros above up to the longest instruction. -/
def tableWordBytes (c : Config) (nbits w : Nat) : List Byte :=
  leBytes ((nbits + 7) / 8) w ++ List.replicate (maxLen c) 0#8

/-- The instruction the decoder reads from a table word. The operand widths are those of the default
configuration, as at `State.reset`. -/
def decodeTableWord (nbits w : Nat) : Option Instr :=
  match decode Config.default (tableWordBytes Config.default nbits w) with
  | .instr i _ => some i
  | .empty => none
  | .reject _ => none

end Sys2Proof
end

