-- ==== Sys2Proof/Machine/Bits.lean ====
section
/-! DEFINITION. Bit vectors of a parametric width as numbers, and the polarity of a key (R10, R14). -/

namespace Sys2Proof.Machine

/-- The `n`-bit number whose bit `i` is `f i`. -/
def bitsOf : Nat → (Nat → Bool) → Nat
  | 0, _ => 0
  | n + 1, f => bitsOf n f + if f n then 2 ^ n else 0

/-- The number of set bits of `v` below bit `n` (R126). -/
def popcount : Nat → Nat → Nat
  | 0, _ => 0
  | n + 1, v => popcount n v + if v.testBit n then 1 else 0

/-- The least width that holds every value up to `n`: `ceil(log2(n+1))` bits (R32, R41). -/
def widthOf (n : Nat) : Nat := if n = 0 then 0 else n.log2 + 1

/-- `asr(v, s)`: `floor(v / 2^s)`, the arithmetic shift right of R10. -/
def asr (v : Int) (s : Nat) : Int := v / (2 : Int) ^ s

/-- `clamp(v, lo, hi)` is `min(max(v, lo), hi)` (R10). -/
def clamp (v lo hi : Int) : Int := min (max v lo) hi

/-- `RELEASED_LEVEL`: 1 when `ACTIVE_LOW`, else 0 (R14). -/
def releasedLevel (c : Config) : Bool := c.activeLow

/-- `ALL_RELEASED`: the `SNAP_W`-bit vector with every bit at `RELEASED_LEVEL` (R14). -/
def allReleased (c : Config) : Nat := bitsOf c.snapW fun _ => releasedLevel c

/-- `pressed(v, i)`: bit `i` of the snapshot is at the active level (R14, R190). -/
def pressed (c : Config) (v i : Nat) : Bool := if c.activeLow then !v.testBit i else v.testBit i

end Sys2Proof.Machine
end

