-- ==== Sys2Proof/Machine/Legal.lean ====
section
/-! DEFINITION. The constraints a configuration must meet before it is used (R9, R116, R141, R413). A
configuration that breaks one is refused: it is given no meaning. What they add to R9's list is log entry 12. -/

namespace Sys2Proof.Machine

/-- `QD_CLASS[t]`. The map is total on the 16 indices (R141); a legal list has all 16. -/
def classOf (c : Config) (t : Nat) : QdClass := c.qdClass.getD t .hold

/-- The 8 single-bit (Gray) edges of R101. -/
def grayEdges : List Nat := [0x1, 0x2, 0x4, 0x7, 0x8, 0xB, 0xD, 0xE]

/-- The 4 no-change indices of R101. -/
def noChange : List Nat := [0x0, 0x5, 0xA, 0xF]

/-- A class that scores a rotation unit of its own (R141 (b)). -/
def scored : QdClass → Bool
  | .inc => true
  | .dec => true
  | .hold => false
  | .skip => false

/-- `QD_CLASS` is legal: R141 (a) to (d). -/
def qdClassLegal (c : Config) : Bool :=
  c.qdClass.length == 16
    && (classOf c 0x3 == .skip && classOf c 0xC == .skip)
    && grayEdges.all (fun t => scored (classOf c t) || classOf c t == .hold)
    && noChange.all (fun t => classOf c t == .hold)
    && [0x6, 0x9].all (fun t => classOf c t == .skip || classOf c t == .hold)

/-- Two neighbouring entries of `STEP_TABLE`: increasing, and `|b - a * 2^(1/12)| ≤ 1` in real arithmetic
(R116 (b), (c)), said over the integers by taking 12th powers: `(b-1)^12 ≤ 2 a^12 ≤ (b+1)^12` for `b ≥ 1`. -/
def semitone (a b : Nat) : Bool :=
  decide (a < b) && decide ((b - 1) ^ 12 ≤ 2 * a ^ 12) && decide (2 * a ^ 12 ≤ (b + 1) ^ 12)

/-- Every two neighbours of a table are a semitone apart. -/
def semitones : List Nat → Bool
  | [] => true
  | [_] => true
  | a :: b :: r => semitone a b && semitones (b :: r)

/-- `STEP_TABLE` is legal: 12 entries (R76) that meet R116 (a) to (c). -/
def stepTableLegal (c : Config) : Bool :=
  c.stepTable.length == 12
    && c.stepTable.all (fun v => decide (0 < v) && decide (v < 2 ^ c.phaseW))
    && semitones c.stepTable

/-- The snapshot and matrix constraints of R9. -/
def geometryLegal (c : Config) : Bool :=
  decide (32 ≤ c.snapW) && decide (c.nRows * c.nCols ≤ c.snapW) && decide (c.nNoteKeys ≤ 12)

/-- No number stands twice in the list. -/
def distinct : List Nat → Bool
  | [] => true
  | a :: r => !r.contains a && distinct r

/-- The knob constraints of R8 and R9: at least one knob, one A and one B bit each, every phase bit below
`SNAP_W`, at or above `N_NOTE_KEYS` and different from every other, and `VOL_KNOB < N_KNOBS`. -/
def knobsLegal (c : Config) : Bool :=
  decide (1 ≤ c.nKnobs)
    && (c.qdABit.length == c.nKnobs && c.qdBBit.length == c.nKnobs)
    && (c.qdABit ++ c.qdBBit).all (fun b => decide (b < c.snapW) && decide (c.nNoteKeys ≤ b))
    && distinct (c.qdABit ++ c.qdBBit)
    && decide (c.volKnob < c.nKnobs)

/-- The synthesizer constraints of R9. -/
def synthLegal (c : Config) : Bool :=
  decide (1 ≤ c.sampleBits) && decide (c.sampleBits ≤ c.phaseW) && decide (c.rotMax ≤ c.maxVolume)

/-- The bus constraints of R9, `BUS_ID` in its width, and a payload that holds the eight bytes R104 lays out. -/
def busLegal (c : Config) : Bool :=
  decide (1 ≤ c.txqCap) && decide (1 ≤ c.rxqCap) && decide (1 ≤ c.mboxN) && decide (c.busId < 2 ^ c.busIdW)
    && decide (8 ≤ c.frameBytes)

/-- The configuration meets every constraint (R9, R413). -/
def legal (c : Config) : Bool :=
  geometryLegal c && knobsLegal c && qdClassLegal c && synthLegal c && stepTableLegal c && busLegal c

end Sys2Proof.Machine
end

