-- ==== Sys2Proof/Machine/State.lean ====
section
/-! DEFINITION. The state of the block, every element of R30 to R45, with the message decoder's `md_cache`
(R340), the configuration (R47: an argument of the run, which no step writes), and the model's own record of
what crosses the ports: the events still to come (log entry 5), the emitted frames that may still arrive (log entry
10), and what was emitted, returned and raised so far (log entry 11). -/

namespace Sys2Proof.Machine

/-- A direction in {-1, +1} (R31). -/
inductive Dir where
  | plus
  | minus
deriving DecidableEq, Repr

/-- The decoder state of one knob: `qd_prev`, `qd_dir`, `qd_rot` (R30 to R32). -/
structure Knob where
  prev : PhaseCode
  dir : Dir
  rot : Nat
deriving DecidableEq, Repr

/-- The named conditions of R370; none transfers control (R378). -/
inductive Condition where
  /-- Code 1, raised by reset when `INIT_OK` is false. -/
  | initFailure
  /-- Code 2, raised by RX_FRAME on an accepted frame while `rxq` is full. -/
  | rxOverrun
  /-- Code 3, raised by the message decoder on an unknown kind or a Press with a note above 11. -/
  | decodeIgnored
  /-- Code 4, raised by QD_STEP on a SKIP transition. -/
  | quadSkip
  /-- Code 5, the model's own: raised by a reserved code, an illegal configuration, a payload not of
  `FRAME_BYTES` bytes. -/
  | refused
deriving DecidableEq, Repr

/-- The codes of R370, the spec's own numbering. -/
def Condition.code : Condition → Nat
  | .initFailure => 1
  | .rxOverrun => 2
  | .decodeIgnored => 3
  | .quadSkip => 4
  | .refused => 5

/-- What one DISPLAY_READ returns (R345): the store pair, and the last decoded frame. -/
structure DisplayView where
  inputs : Nat
  step : Nat
  cache : Option Frame
deriving DecidableEq, Repr

/-- The machine's state. -/
structure State where
  /-- The parameters of R8; written by no step (R47). -/
  cfg : Config
  /-- `qd_prev[k]`, `qd_dir[k]`, `qd_rot[k]` for knob `k` (R30 to R32). -/
  knobs : List Knob
  /-- `sc_prev`, `SNAP_W` bits (R33). -/
  scPrev : Nat
  /-- `sc_busy` (R34). -/
  scBusy : Bool
  /-- `sc_fresh`, `SNAP_W` bits (R34). -/
  scFresh : Nat
  /-- `sc_step`, `PHASE_W` bits (R34). -/
  scStep : Nat
  /-- `sc_emit`, an `N_NOTE_KEYS`-bit mask (R34). -/
  scEmit : Nat
  /-- `ss_inputs`, `SNAP_W` bits (R35). -/
  ssInputs : Nat
  /-- `ss_step`, `PHASE_W` bits (R36). -/
  ssStep : Nat
  /-- `syn_phase`, `PHASE_W` bits (R37). -/
  synPhase : Nat
  /-- `audio_out`, `SAMPLE_BITS`-bit two's complement (R38). -/
  audioOut : Int
  /-- `txq`, the head first (R39). -/
  txq : List Frame
  /-- `tx_hold.valid` (R40). -/
  txHoldValid : Bool
  /-- `tx_hold.frame` (R40). -/
  txHoldFrame : Frame
  /-- `mbox_avail` (R41). -/
  mboxAvail : Nat
  /-- `rxq`, the head first (R42). -/
  rxq : List Frame
  /-- `rx_drop`, a 32-bit saturating counter (R43). -/
  rxDrop : BitVec 32
  /-- `halted` (R44). -/
  halted : Bool
  /-- `refused`, the spec's mark of a refused step (R45). -/
  refused : Bool
  /-- `md_cache`, the message decoder's last frame (R340). -/
  mdCache : Option Frame
  /-- MODEL'S OWN: the events the environment still offers, in the machine form of `Decode.lean` (R47, R125). -/
  trace : List Byte
  /-- MODEL'S OWN: the frames emitted on the port `bus_tx`, oldest first (R53, R276). -/
  busTx : List Frame
  /-- MODEL'S OWN: the emitted frames that the environment may still deliver to this node's own RX_FRAME, oldest first;
  none without `LOOPBACK` (R313, log entry 10). -/
  ownPending : List Frame
  /-- MODEL'S OWN: the frames handed out at the pop port of `rxq`, oldest first (R53, R314). -/
  rxOut : List Frame
  /-- MODEL'S OWN: what the display's reads returned, oldest first (R53, R345). -/
  displayOut : List DisplayView
  /-- MODEL'S OWN: the conditions raised so far, oldest first (R13, R370). -/
  raised : List Condition
deriving DecidableEq, Repr

/-- Why the machine stops. No condition of R370 stops the block, and its hold and its halt are states that stay
(R13, R376), so the one fault is the trace's own. -/
inductive Fault where
  /-- Raised by `step` when the offered trace ends inside an event's operands: the environment has offered no
  whole event. Safe: the spec gives such a trace no step. -/
  | truncatedTrace
deriving DecidableEq, Repr

/-- Why an input has no meaning. The refusals the spec itself describes (R121, R9, R310) are no refusal here:
they set `refused`, as R13 says. -/
inductive Refusal where
  /-- Raised by `exec` for an instruction whose meaning is not written yet; no arm raises it now. Safe. -/
  | notModelled (mnemonic : String)
  /-- Raised by `step` when a trace byte names no row of the opcode table: the spec has no such word (R120). Safe. -/
  | undefinedWord (b : Byte)
  /-- Raised by `step` when an operand in the trace has a bit above its width or names a knob that does not
  exist: the spec has no such operand (R122, R143). Safe. -/
  | operandRange
  /-- Raised by a decoder operation whose knob operand is not below `N_KNOBS`: R143 defines QD_STEP only for
  `0 ≤ k < N_KNOBS`. No decoded instruction has one. Safe. -/
  | noSuchKnob (k : Nat)
deriving DecidableEq, Repr

/-- The elements whose reset value the spec leaves unspecified (R34, R40, R48). -/
structure Unspecified where
  scFresh : Nat
  scStep : Nat
  scEmit : Nat
  txHoldFrame : Frame
deriving DecidableEq, Repr

/-- Zero for each unspecified element (DESIGN CHOICE, log entry 4); the reset makes the frame's bytes zeros. -/
def Unspecified.zero : Unspecified := ⟨0, 0, 0, ⟨0, []⟩⟩

/-- A frame cut to its size: the identifier to `BUS_ID_W` bits, the payload to `FRAME_BYTES` bytes, zeros behind a
shorter one (R104). -/
def sized (c : Config) (f : Frame) : Frame :=
  ⟨f.id % 2 ^ c.busIdW, (f.data ++ List.replicate c.frameBytes 0#8).take c.frameBytes⟩

/-- A knob's reset value: code 00, direction +1, rotation 0 (R30 to R32). -/
def Knob.reset : Knob := ⟨0b00#2, .plus, 0⟩

/-- The state right after reset under a configuration (R410, R48), whatever the unspecified elements hold (each
cut to its size), with no event offered yet. An illegal configuration is refused before the run (R9, R413);
without its resources the block is halted (R376). -/
def State.resetWith (c : Config) (u : Unspecified) : State where
  cfg := c
  knobs := List.replicate c.nKnobs Knob.reset
  scPrev := allReleased c
  scBusy := false
  scFresh := u.scFresh % 2 ^ c.snapW
  scStep := u.scStep % 2 ^ c.phaseW
  scEmit := u.scEmit % 2 ^ c.nNoteKeys
  ssInputs := allReleased c
  ssStep := 0
  synPhase := 0
  audioOut := 0
  txq := []
  txHoldValid := false
  txHoldFrame := sized c u.txHoldFrame
  mboxAvail := c.mboxN
  rxq := []
  rxDrop := 0#32
  halted := !c.initOk
  refused := !legal c
  mdCache := none
  trace := []
  busTx := []
  ownPending := []
  rxOut := []
  displayOut := []
  raised := (if legal c then [] else [.refused]) ++ (if c.initOk then [] else [.initFailure])

/-- The machine right after reset, with the parameter values of R8. -/
def State.reset : State := State.resetWith Config.default Unspecified.zero

end Sys2Proof.Machine
end

