-- ==== Sys2Proof/Machine/Flags.lean ====
section
/-! DEFINITION. The status bits of R46: each is computed from the state that holds it, none is stored twice. -/

namespace Sys2Proof.Machine

/-- `full(q)`: the length is the capacity (R12). -/
def full (cap : Nat) (q : List Frame) : Bool := q.length == cap

/-- `empty(q)`: the length is 0 (R12). -/
def empty (q : List Frame) : Bool := q.length == 0

/-- `full(txq)` (R46). -/
def State.txFull (s : State) : Bool := full s.cfg.txqCap s.txq

/-- `empty(txq)` (R46). -/
def State.txEmpty (s : State) : Bool := empty s.txq

/-- `full(rxq)` (R46). -/
def State.rxFull (s : State) : Bool := full s.cfg.rxqCap s.rxq

/-- `empty(rxq)` (R46). -/
def State.rxEmpty (s : State) : Bool := empty s.rxq

/-- `mbox_avail = 0` (R46). -/
def State.mboxNone (s : State) : Bool := s.mboxAvail == 0

/-- `sc_emit ≠ 0`: frames of this cycle are still to be submitted (R180). -/
def State.emitPending (s : State) : Bool := s.scEmit != 0

/-- The frames in flight to the bus driver, `MBOX_N - mbox_avail` (R41). -/
def State.inFlight (s : State) : Nat := s.cfg.mboxN - s.mboxAvail

/-- The direction's stored bit: 0 encodes +1, 1 encodes -1 (R31, R111). -/
def Dir.bit : Dir → BitVec 1
  | .plus => 0#1
  | .minus => 1#1

/-- `qd_rot[k]` in its stored width, `ceil(log2(ROT_MAX+1))` bits (R32, R111). -/
def rotCode (c : Config) (r : Nat) : BitVec (widthOf c.rotMax) := BitVec.ofNat _ r

/-- `mbox_avail` in its stored width, `ceil(log2(MBOX_N+1))` bits (R41). -/
def State.mboxCode (s : State) : BitVec (widthOf s.cfg.mboxN) := BitVec.ofNat _ s.mboxAvail

/-- `audio_out` as the bits of its register, `SAMPLE_BITS`-bit two's complement (R38, R113). -/
def State.audioCode (s : State) : BitVec s.cfg.sampleBits := BitVec.ofInt _ s.audioOut

/-- `dac_code = audio_out + 2^(SAMPLE_BITS-1)`, the unsigned code at the output port (R53). -/
def State.dacCode (s : State) : Int := s.audioOut + (2 : Int) ^ (s.cfg.sampleBits - 1)

end Sys2Proof.Machine
end

