-- ==== Sys2Proof/Machine/Operands.lean ====
section
/-! DEFINITION. The operand forms of the operations: the snapshot assembled from the matrix levels, the phase
code of a knob, the edge mask, the selected key, the step-table lookup, and the frame an emit builds. -/

namespace Sys2Proof.Machine

/-- `M(r, c)`: the level sampled at row r, column c, from the operand written as a snapshot (R52, R125). -/
def matrixLevel (c : Config) (m r col : Nat) : Bool := m.testBit (r * c.nCols + col)

/-- Step (a) of R181: position (r, c) is bit `r * N_COLS + c`; a bit at or above `N_ROWS * N_COLS` is not
sampled and holds `RELEASED_LEVEL` (R102). -/
def assemble (c : Config) (m : Nat) : Nat :=
  bitsOf c.snapW fun i =>
    if i < c.nRows * c.nCols then matrixLevel c m (i / c.nCols) (i % c.nCols) else releasedLevel c

/-- The phase code of knob k in a snapshot, `{F[QD_B_BIT[k]], F[QD_A_BIT[k]]}`, the sampled levels themselves
(R100). -/
def phaseCode (c : Config) (f k : Nat) : PhaseCode :=
  BitVec.ofBool (f.testBit (c.qdBBit.getD k 0)) ++ BitVec.ofBool (f.testBit (c.qdABit.getD k 0))

/-- The transition index `t = {p, c}` (R101). -/
def transIndex (p c : PhaseCode) : TransIndex := p ++ c

/-- Step (b) of R181: the pressed note key that the ascending scan visits last (R183). -/
def selectedKey (c : Config) (f : Nat) : Option Nat :=
  (List.range c.nNoteKeys).foldl (fun kstar i => if pressed c f i then some i else kstar) none

/-- `STEP_TABLE[n]`; a lookup past the table is given no value (R76). -/
def stepLookup (c : Config) (n : Nat) : Option Nat := c.stepTable[n]?

/-- The step size of the selected key, 0 if there is none (R181, R183). A legal configuration has an entry for
every note key, so the last default is never taken (R76). -/
def selectedStep (c : Config) (f : Nat) : Nat :=
  match selectedKey c f with
  | none => 0
  | some k => (stepLookup c k).getD 0

/-- Step (d) of R181: the mask of the note keys whose pressed state differs between two snapshots (R182). -/
def edgeMask (c : Config) (f prev : Nat) : Nat :=
  bitsOf c.nNoteKeys fun i => pressed c f i != pressed c prev i

/-- The lowest index whose bit is set (R184); none for 0. -/
def lowestBit (v : Nat) : Option Nat := (List.range (v.log2 + 1)).find? fun i => v.testBit i

/-- The event kind byte Press, ASCII 'P' (R105). -/
def kindPress : Byte := 0x50#8

/-- The event kind byte Release, ASCII 'R' (R105). -/
def kindRelease : Byte := 0x52#8

/-- `mkFrame(kind, note)` (R109): every byte after the note is reserved and 0x00 (R108), five with `FRAME_BYTES = 8`
(log entry 14). -/
def mkFrame (c : Config) (kind : Byte) (note : Nat) : Frame :=
  ⟨c.busId, kind :: c.octaveTx :: BitVec.ofNat 8 note :: List.replicate (c.frameBytes - 3) 0#8⟩

/-- `f.data[n]` (R104). No frame of the block ends before its note, so the default is never read for `n ≤ 2`. -/
def dataByte (f : Frame) (n : Nat) : Byte := f.data.getD n 0#8

/-- The frame SCAN_EMIT builds for note key i of a snapshot: Press if the key is pressed, else Release (R184). -/
def keyFrame (c : Config) (f i : Nat) : Frame :=
  mkFrame c (if pressed c f i then kindPress else kindRelease) i

end Sys2Proof.Machine
end

