-- ==== Sys2Proof/Machine/Ops.lean ====
section
/-! DEFINITION. The named updates of the state, each the one place where its elements are written (R54), the
FIFO primitives (R12), the store accesses (R71 to R75), and the four outcomes of a step (R13): it completes,
it holds (`State.run`, nothing changes), it is refused (`State.markRefused`), it raises a condition
(`State.raise`). There is no trap entry and no trap return to model (R378). -/

namespace Sys2Proof.Machine

/-! ### Outcomes of a step -/

/-- `raise <Condition>`: recorded, and nothing else changes (R13, R370). -/
def State.raise (s : State) (e : Condition) : State := { s with raised := s.raised ++ [e] }

/-- A refused step: the mark is set and stays, nothing else of the machine changes (R13, R45, R121). -/
def State.markRefused (s : State) : State :=
  { s with refused := true, raised := s.raised ++ [.refused] }

/-- A step under an illegal configuration is refused (R9, R370 code 5). -/
def State.gate (s : State) (k : Host.Outcome State Fault Refusal) : Host.Outcome State Fault Refusal :=
  if legal s.cfg then k else .next s.markRefused

/-- A step that is enabled completes in `t`; one that is not holds, and a hold changes nothing (R13). -/
def State.run (s : State) (enabled : Bool) (t : State) : Host.Outcome State Fault Refusal :=
  if enabled then .next t else .next s

/-- A payload of another length than `FRAME_BYTES` has no meaning: the step is refused, in any state (R110, R370
code 5, log entry 6). -/
def State.onPayload (s : State) (length : Nat) (k : Host.Outcome State Fault Refusal) :
    Host.Outcome State Fault Refusal :=
  if length = s.cfg.frameBytes then k else .next s.markRefused

/-- An operation on a knob is defined for `0 ≤ k < N_KNOBS` (R143). -/
def State.onKnob (s : State) (k : Nat) (r : Host.Outcome State Fault Refusal) :
    Host.Outcome State Fault Refusal :=
  if k < s.cfg.nKnobs then r else .refused (.noSuchKnob k)

/-! ### FIFO primitives (R12) -/

/-- `push(q, f)`: append at the tail. -/
def push (q : List Frame) (f : Frame) : List Frame := q ++ [f]

/-- `head(q)`. -/
def head (q : List Frame) : Option Frame := q.head?

/-- `pop(q)`: what is left when the head is removed. -/
def pop (q : List Frame) : List Frame := q.tail

/-! ### Knob decoder -/

/-- The knob's direction as a number in {-1, +1} (R31). -/
def Dir.sign : Dir → Int
  | .plus => 1
  | .minus => -1

/-- `constrainRotation(v)` is `clamp(v, 0, ROT_MAX)` (R150). -/
def constrainRotation (c : Config) (v : Int) : Nat := (clamp v 0 c.rotMax).toNat

/-- The rotation units a class applies, `d` of R143, from the direction before the step. -/
def classDelta (c : Config) (dir : Dir) : QdClass → Int
  | .hold => 0
  | .inc => 1
  | .dec => -1
  | .skip => c.qdSkipWeight * dir.sign

/-- The direction after a class: INC and DEC set it, HOLD and SKIP leave it (R143). -/
def classDir (dir : Dir) : QdClass → Dir
  | .hold => dir
  | .inc => .plus
  | .dec => .minus
  | .skip => dir

/-- One decoder update of one knob's three elements (R143): the code is recorded on every class. -/
def Knob.step (c : Config) (n : Knob) (code : PhaseCode) : Knob :=
  let cls := classOf c (transIndex n.prev code).toNat
  { prev := code
    dir := classDir n.dir cls
    rot := constrainRotation c (n.rot + classDelta c n.dir cls) }

/-- Knob k; past the last knob, the reset value, which no legal state reads. -/
def State.knob (s : State) (k : Nat) : Knob := s.knobs.getD k Knob.reset

/-- Write knob k. -/
def State.setKnob (s : State) (k : Nat) (n : Knob) : State := { s with knobs := s.knobs.set k n }

/-- The class QD_STEP(k, code) selects in this state (R101, R143). -/
def State.stepClass (s : State) (k : Nat) (code : PhaseCode) : QdClass :=
  classOf s.cfg (transIndex (s.knob k).prev code).toNat

/-- QD_STEP(k, code) (R143), with the condition QuadSkip on a SKIP (R370 code 4). -/
def State.stepKnob (s : State) (k : Nat) (code : PhaseCode) : State :=
  if s.stepClass k code == .skip then
    (s.setKnob k ((s.knob k).step s.cfg code)).raise .quadSkip
  else
    s.setKnob k ((s.knob k).step s.cfg code)

/-- getRotation(k), a lock-free read without side effect (R149). -/
def State.getRotation (s : State) (k : Nat) : Nat := (s.knob k).rot

/-! ### Scanner -/

/-- SCAN_CAPTURE's writes of the in-cycle registers (R181). -/
def State.beginCycle (s : State) (f step e : Nat) : State :=
  { s with scFresh := f, scStep := step, scEmit := e, scBusy := true }

/-- Write `sc_emit` (R184). -/
def State.setEmit (s : State) (e : Nat) : State := { s with scEmit := e }

/-- The end of a cycle: retain the snapshot as the previous one and become idle (R188 (f)). -/
def State.endCycle (s : State) (f : Nat) : State := { s with scPrev := f, scBusy := false }

/-! ### Shared State Store: each access is one atomic step (R71) -/

/-- The combined write of R72. -/
def State.storeWrite (s : State) (inputs step : Nat) : State := { s with ssInputs := inputs, ssStep := step }

/-- The step-only write of R73. -/
def State.storeWriteStep (s : State) (step : Nat) : State := { s with ssStep := step }

/-- The combined read of R74. -/
def State.storeRead (s : State) : Nat × Nat := (s.ssInputs, s.ssStep)

/-- The lock-free load of the step size (R75). -/
def State.loadStep (s : State) : Nat := s.ssStep

/-! ### Synthesizer -/

/-- Write the phase and the output register (R230). -/
def State.setSample (s : State) (ph : Nat) (out : Int) : State := { s with synPhase := ph, audioOut := out }

/-! ### Transmit path -/

/-- Write `txq`. -/
def State.setTxq (s : State) (q : List Frame) : State := { s with txq := q }

/-- TX_ENQ(f): push a frame into the transmit FIFO (R271). -/
def State.enqueueTx (s : State) (f : Frame) : State := s.setTxq (push s.txq f)

/-- Fill the holding register (R274). -/
def State.setHold (s : State) (f : Frame) : State := { s with txHoldFrame := f, txHoldValid := true }

/-- Empty the holding register: the valid bit is cleared, the frame is not written (R276). -/
def State.clearHold (s : State) : State := { s with txHoldValid := false }

/-- Write `mbox_avail`. -/
def State.setMbox (s : State) (n : Nat) : State := { s with mboxAvail := n }

/-- Emit a frame on the port `bus_tx` (R53); the transmit primitive always accepts it (R276). With `LOOPBACK` it may
arrive at the node's own RX_FRAME, once and at any later point (R313). -/
def State.emitBus (s : State) (f : Frame) : State :=
  { s with
    busTx := s.busTx ++ [f]
    ownPending := if s.cfg.loopback then s.ownPending ++ [f] else s.ownPending }

/-! ### Receive path and message decoder -/

/-- Write `rxq`. -/
def State.setRxq (s : State) (q : List Frame) : State := { s with rxq := q }

/-- The environment delivers an own frame: that emission arrives no second time (R313). -/
def State.takeOwn (s : State) (f : Frame) : State := { s with ownPending := s.ownPending.erase f }

/-- Count a dropped frame: `rx_drop` saturates at 2^32 - 1 (R312). -/
def State.countDrop (s : State) : State :=
  { s with rxDrop := if s.rxDrop = BitVec.allOnes 32 then s.rxDrop else s.rxDrop + 1#32 }

/-- Hand a frame out at the pop port (R53, R314). -/
def State.emitRx (s : State) (f : Frame) : State := { s with rxOut := s.rxOut ++ [f] }

/-- RX_DEQ: pop the head of `rxq` for the consumer (R314); nothing where there is no head. -/
def State.dequeueRx (s : State) : State :=
  match head s.rxq with
  | some f => (s.setRxq (pop s.rxq)).emitRx f
  | none => s

/-- Write `md_cache` (R341). -/
def State.setCache (s : State) (f : Frame) : State := { s with mdCache := some f }

/-- Record what a display read returned (R345). -/
def State.emitDisplay (s : State) (v : DisplayView) : State := { s with displayOut := s.displayOut ++ [v] }

/-! ### Event trace -/

/-- Replace the events still to come. -/
def State.setTrace (s : State) (bs : List Byte) : State := { s with trace := bs }

end Sys2Proof.Machine
end

