-- ==== Sys2Proof/Machine/Enabled.lean ====
section
/-! DEFINITION. When a step is enabled (R13, R180, R274, R276, R341, R372): while `halted` is 1 none is (R376). A
step that is not enabled holds. What is refused whatever the state (a reserved code, a received payload not of
`FRAME_BYTES` bytes) is never held (log entry 6). -/

namespace Sys2Proof.Machine

/-- SCAN_CAPTURE: `sc_busy = 0` (R180). -/
def State.captureEnabled (s : State) : Bool := !s.halted && !s.scBusy

/-- SCAN_EMIT: `sc_busy = 1`, `sc_emit ≠ 0` and `txq` not full (R180, R185). -/
def State.emitEnabled (s : State) : Bool := !s.halted && s.scBusy && s.emitPending && !s.txFull

/-- SCAN_COMMIT: `sc_busy = 1` and `sc_emit = 0` (R180). -/
def State.commitEnabled (s : State) : Bool := !s.halted && s.scBusy && !s.emitPending

/-- The steps an event alone enables: SAMPLE_TICK, TX_DONE, RX_FRAME, DISPLAY_READ (R230, R278, R310, R345). -/
def State.eventEnabled (s : State) : Bool := !s.halted

/-- RX_FRAME: another node's frame may arrive at any time (R310, R347), an own frame only with `LOOPBACK`, and once
for each emission (R313). -/
def State.rxEnabled (s : State) (o : Origin) (f : Frame) : Bool :=
  match o with
  | .peer => s.eventEnabled
  | .own => s.eventEnabled && s.cfg.loopback && s.ownPending.contains f

/-- TX_DEQ: the holding register free and `txq` not empty (R274). -/
def State.txDeqEnabled (s : State) : Bool := !s.halted && !s.txHoldValid && !s.txEmpty

/-- TX_ISSUE: a held frame and a free mailbox (R276). -/
def State.txIssueEnabled (s : State) : Bool := !s.halted && s.txHoldValid && !s.mboxNone

/-- MD_STEP and RX_DEQ: `rxq` not empty (R314, R341). -/
def State.rxDeqEnabled (s : State) : Bool := !s.halted && !s.rxEmpty

/-- The frame SCAN_EMIT pushes: `mkFrame` of the lowest pending key (R184). -/
def State.emitFrame (s : State) : Option Frame := (lowestBit s.scEmit).map (keyFrame s.cfg s.scFresh)

/-- TX_ENQ(f): inside an enabled SCAN_EMIT whose push is `f`, and nowhere else (R270, R271). -/
def State.txEnqEnabled (s : State) (f : Frame) : Bool := s.emitEnabled && s.emitFrame == some f

/-- QD_STEP(k, c): inside an enabled SCAN_CAPTURE whose snapshot has the phase code `c` at knob k, and nowhere else
(R100, R140). -/
def State.qdStepEnabled (s : State) (u : KnobUpdate) (c : PhaseCode) : Bool :=
  s.captureEnabled && phaseCode s.cfg (assemble s.cfg u.levels) u.knob == c

/-- The transition row from `p` to `c`: such a QD_STEP of a knob that last sampled `p` (R101). -/
def State.transitionEnabled (s : State) (u : KnobUpdate) (p c : PhaseCode) : Bool :=
  s.qdStepEnabled u c && (s.knob u.knob).prev == p

/-- A frame-kind row: an enabled MD_STEP that decodes a frame of exactly these payload bytes (R341). -/
def State.decodesEnabled (s : State) (data : List Byte) : Bool :=
  s.rxDeqEnabled && (head s.rxq).map (·.data) == some data

/-- Whether an operation is enabled in a state. -/
def enabled (i : Instr) (s : State) : Bool :=
  match i with
  | .scanCapture _ => s.captureEnabled
  | .scanEmit => s.emitEnabled
  | .scanCommit => s.commitEnabled
  | .sampleTick => s.eventEnabled
  | .txDeq => s.txDeqEnabled
  | .txIssue => s.txIssueEnabled
  | .txDone => s.eventEnabled
  | .rxFrame a data => s.rxEnabled a.origin ⟨a.id, data⟩ || data.length != s.cfg.frameBytes
  | .mdStep => s.rxDeqEnabled
  | .displayRead => s.eventEnabled
  | .reservedA => true
  | .reservedB => true
  | .reservedC => true
  | .reservedD => true
  | .reservedE => true
  | .reservedF => true
  | .qdT0 u => s.transitionEnabled u 0b00#2 0b00#2
  | .qdT1 u => s.transitionEnabled u 0b00#2 0b01#2
  | .qdT2 u => s.transitionEnabled u 0b00#2 0b10#2
  | .qdT3 u => s.transitionEnabled u 0b00#2 0b11#2
  | .qdT4 u => s.transitionEnabled u 0b01#2 0b00#2
  | .qdT5 u => s.transitionEnabled u 0b01#2 0b01#2
  | .qdT6 u => s.transitionEnabled u 0b01#2 0b10#2
  | .qdT7 u => s.transitionEnabled u 0b01#2 0b11#2
  | .qdT8 u => s.transitionEnabled u 0b10#2 0b00#2
  | .qdT9 u => s.transitionEnabled u 0b10#2 0b01#2
  | .qdTA u => s.transitionEnabled u 0b10#2 0b10#2
  | .qdTB u => s.transitionEnabled u 0b10#2 0b11#2
  | .qdTC u => s.transitionEnabled u 0b11#2 0b00#2
  | .qdTD u => s.transitionEnabled u 0b11#2 0b01#2
  | .qdTE u => s.transitionEnabled u 0b11#2 0b10#2
  | .qdTF u => s.transitionEnabled u 0b11#2 0b11#2
  | .framePress o n r3 r4 r5 r6 l => s.decodesEnabled (kindPress :: o :: n :: r3 :: r4 :: r5 :: r6 :: l)
  | .frameRelease o n r3 r4 r5 r6 l => s.decodesEnabled (kindRelease :: o :: n :: r3 :: r4 :: r5 :: r6 :: l)
  | .txEnq f => s.txEnqEnabled f
  | .rxDeq => s.rxDeqEnabled
  | .qdStep u c => s.qdStepEnabled u c

/-- The operation waits in this state: the configuration is legal, so the step is not refused, and it is not
enabled. -/
def holds (i : Instr) (s : State) : Bool := legal s.cfg && !enabled i s

end Sys2Proof.Machine
end

