-- ==== Sys2Proof/Machine/BusRx.lean ====
section
/-! DEFINITION. The bus receive path: RX_FRAME and RX_DEQ (45_bus_rx.md). -/

namespace Sys2Proof.Machine

/-- RX_FRAME (R310): the acceptance filter, then the push of the raw frame, or, on a full `rxq`, the newest frame
is dropped and counted (R312) with the condition RxOverrun (R370 code 2). -/
def State.receive (s : State) (f : Frame) : State :=
  if f.id ≠ s.cfg.busId then s
  else if !s.rxFull then s.setRxq (push s.rxq f)
  else s.countDrop.raise .rxOverrun

/-- The arrival of a frame: an own frame's emission is used up with it (R313). -/
def State.arrive (s : State) (o : Origin) (f : Frame) : State :=
  match o with
  | .peer => s.receive f
  | .own => (s.takeOwn f).receive f

/-- RX_FRAME, event code 0x7 (R310); an own frame that is not to arrive is held off (R313). A payload not of
`FRAME_BYTES` bytes is refused in any state (R110, R370 code 5). -/
def execRxFrame (a : Arrival) (data : List Byte) (s : State) : Host.Outcome State Fault Refusal :=
  s.onPayload data.length
    (s.gate (s.run (s.rxEnabled a.origin ⟨a.id, data⟩) (s.arrive a.origin ⟨a.id, data⟩)))

/-- RX_DEQ (R314), as an instruction of its own (log entry 8); it holds on an empty `rxq`. -/
def execRxDeq (s : State) : Host.Outcome State Fault Refusal :=
  s.gate (s.run s.rxDeqEnabled s.dequeueRx)

end Sys2Proof.Machine
end

