-- ==== Sys2Proof/Machine/BusTx.lean ====
section
/-! DEFINITION. The bus transmit path: TX_DEQ, TX_ISSUE, TX_DONE (44_bus_tx.md). It never reads or changes a
frame's contents (R281 (d)). -/

namespace Sys2Proof.Machine

/-- TX_DEQ (R274): the head of `txq` moves into the holding register. -/
def State.dequeueTx (s : State) : State :=
  match head s.txq with
  | some f => (s.setTxq (pop s.txq)).setHold f
  | none => s

/-- TX_ISSUE (R276): take a mailbox, hand the held frame to the bus, free the holding register. -/
def State.issue (s : State) : State :=
  ((s.setMbox (s.mboxAvail - 1)).emitBus s.txHoldFrame).clearHold

/-- TX_DONE (R278): one mailbox comes back, saturating at `MBOX_N`. -/
def State.complete (s : State) : State := s.setMbox (min (s.mboxAvail + 1) s.cfg.mboxN)

/-- TX_DEQ, event code 0x4 (R274). -/
def execTxDeq (s : State) : Host.Outcome State Fault Refusal :=
  s.gate (s.run s.txDeqEnabled s.dequeueTx)

/-- TX_ISSUE, event code 0x5 (R276); it holds while no mailbox is free. -/
def execTxIssue (s : State) : Host.Outcome State Fault Refusal :=
  s.gate (s.run s.txIssueEnabled s.issue)

/-- TX_DONE, event code 0x6 (R278). -/
def execTxDone (s : State) : Host.Outcome State Fault Refusal :=
  s.gate (s.run s.eventEnabled s.complete)

end Sys2Proof.Machine
end

