-- ==== Sys2Proof/Machine/Environment.lean ====
section
/-! DEFINITION. The environment agents at the ports: the message decoder's MD_STEP, its two frame kinds, and
DISPLAY_READ (47_environment.md). -/

namespace Sys2Proof.Machine

/-- The step size a frame makes the message decoder write (R341): 0 for a Release whatever its note, the table's
entry for a Press with a note up to 11, nothing otherwise. The octave is never applied (R106). -/
def decodedStep (c : Config) (f : Frame) : Option Nat :=
  if dataByte f 0 = kindRelease then some 0
  else if dataByte f 0 = kindPress then
    (if (dataByte f 2).toNat ≤ 11 then stepLookup c (dataByte f 2).toNat else none)
  else none

/-- MD_STEP after its RX_DEQ (R341): the step-only store write, or the condition DecodeIgnored (R370 code 3);
every frame is cached. -/
def State.decodeFrame (s : State) (f : Frame) : State :=
  match decodedStep s.cfg f with
  | some v => (s.storeWriteStep v).setCache f
  | none => (s.raise .decodeIgnored).setCache f

/-- MD_STEP (R341). -/
def State.decodeNext (s : State) : State :=
  match head s.rxq with
  | some f => s.dequeueRx.decodeFrame f
  | none => s

/-- DISPLAY_READ (R345): the store pair in one atomic read, with the cached frame; nothing of the block is
written. -/
def State.display (s : State) : State :=
  s.emitDisplay ⟨s.storeRead.1, s.storeRead.2, s.mdCache⟩

/-- MD_STEP, event code 0x8 (R341); it holds on an empty `rxq`. -/
def execMdStep (s : State) : Host.Outcome State Fault Refusal :=
  s.gate (s.run s.rxDeqEnabled s.decodeNext)

/-- DISPLAY_READ, event code 0x9 (R345). -/
def execDisplayRead (s : State) : Host.Outcome State Fault Refusal :=
  s.gate (s.run s.eventEnabled s.display)

/-- The frame kind Press (R105, R341): the MD_STEP that decodes a Press frame of these payload bytes; it waits where the
head of `rxq` is another frame (log entry 8). -/
def execFramePress (octave note r3 r4 r5 r6 : Byte) (tail : List Byte) (s : State) :
    Host.Outcome State Fault Refusal :=
  s.gate (s.run (s.decodesEnabled (kindPress :: octave :: note :: r3 :: r4 :: r5 :: r6 :: tail)) s.decodeNext)

/-- The frame kind Release (R105, R341): the MD_STEP that decodes a Release frame of these payload bytes (log entry
8). -/
def execFrameRelease (octave note r3 r4 r5 r6 : Byte) (tail : List Byte) (s : State) :
    Host.Outcome State Fault Refusal :=
  s.gate (s.run (s.decodesEnabled (kindRelease :: octave :: note :: r3 :: r4 :: r5 :: r6 :: tail)) s.decodeNext)

end Sys2Proof.Machine
end

