-- ==== Sys2Proof/Machine/Scanner.lean ====
section
/-! DEFINITION. The key scanner: SCAN_CAPTURE, SCAN_EMIT, SCAN_COMMIT (42_key_scanner.md), and the push TX_ENQ that
SCAN_EMIT performs (44_bus_tx.md R271). -/

namespace Sys2Proof.Machine

/-- Step (c) of R181: QD_STEP once for each knob, in ascending order (R140). -/
def State.stepKnobs (s : State) (f : Nat) : State :=
  (List.range s.cfg.nKnobs).foldl (fun s k => s.stepKnob k (phaseCode s.cfg f k)) s

/-- SCAN_CAPTURE(M) (R181). -/
def State.capture (s : State) (m : Nat) : State :=
  let f := assemble s.cfg m
  (s.stepKnobs f).beginCycle f (selectedStep s.cfg f) (edgeMask s.cfg f s.scPrev)

/-- SCAN_EMIT (R184): the frame of the lowest pending key goes into `txq`, and its bit is cleared. -/
def State.emit (s : State) : State :=
  match lowestBit s.scEmit with
  | some i => (s.enqueueTx (keyFrame s.cfg s.scFresh i)).setEmit (s.scEmit ^^^ 2 ^ i)
  | none => s

/-- SCAN_COMMIT (R188): publish the pair in one critical section, retain the snapshot, end the cycle. -/
def State.commit (s : State) : State := (s.storeWrite s.scFresh s.scStep).endCycle s.scFresh

/-- SCAN_CAPTURE, event code 0x0 (R181). -/
def execScanCapture (m : Nat) (s : State) : Host.Outcome State Fault Refusal :=
  s.gate (s.run s.captureEnabled (s.capture m))

/-- SCAN_EMIT, event code 0x1 (R184); it holds on a full `txq` (R185). -/
def execScanEmit (s : State) : Host.Outcome State Fault Refusal :=
  s.gate (s.run s.emitEnabled s.emit)

/-- SCAN_COMMIT, event code 0x2 (R188). -/
def execScanCommit (s : State) : Host.Outcome State Fault Refusal :=
  s.gate (s.run s.commitEnabled s.commit)

/-- TX_ENQ(f) (R271), as a row of its own (log entry 8). It happens only inside SCAN_EMIT, in one atomic step with it
(R270): the row is the SCAN_EMIT step that pushes `f`, and it waits where the next SCAN_EMIT does not push `f`. -/
def execTxEnq (f : Frame) (s : State) : Host.Outcome State Fault Refusal :=
  s.gate (s.run (s.txEnqEnabled f) s.emit)

end Sys2Proof.Machine
end

