-- ==== Sys2Proof/Machine/Knob.lean ====
section
/-! DEFINITION. The rows of the quadrature knob decoder (41_knob_decoder.md): QD_STEP and its 16 transitions. Nothing
but SCAN_CAPTURE calls QD_STEP (R140), in one atomic step with it, so each row is a SCAN_CAPTURE step, named by one of
the updates it makes: it has that step's whole effect where the capture is enabled and makes that update, and waits
elsewhere (log entry 8). The update itself is `State.stepKnob` (R143). A transition row's class is the
configuration's (R141), the default's in the row's name (R142). -/

namespace Sys2Proof.Machine

/-- The SCAN_CAPTURE that moves a knob along the transition from `p` to `c` (R101, R145 to R148). -/
def State.transition (s : State) (u : KnobUpdate) (p c : PhaseCode) : Host.Outcome State Fault Refusal :=
  s.gate (s.onKnob u.knob (s.run (s.transitionEnabled u p c) (s.capture u.levels)))

/-- QD_STEP(k, c) (R143). -/
def execQdStep (u : KnobUpdate) (c : PhaseCode) (s : State) : Host.Outcome State Fault Refusal :=
  s.gate (s.onKnob u.knob (s.run (s.qdStepEnabled u c) (s.capture u.levels)))

/-- QD_T0_00_00_HOLD (R145 under the default classes). -/
def execQdT0 (u : KnobUpdate) (s : State) : Host.Outcome State Fault Refusal := s.transition u 0b00#2 0b00#2

/-- QD_T1_00_01_INC (R146 under the default classes). -/
def execQdT1 (u : KnobUpdate) (s : State) : Host.Outcome State Fault Refusal := s.transition u 0b00#2 0b01#2

/-- QD_T2_00_10_DEC (R147 under the default classes). -/
def execQdT2 (u : KnobUpdate) (s : State) : Host.Outcome State Fault Refusal := s.transition u 0b00#2 0b10#2

/-- QD_T3_00_11_SKIP (R148 under the default classes). -/
def execQdT3 (u : KnobUpdate) (s : State) : Host.Outcome State Fault Refusal := s.transition u 0b00#2 0b11#2

/-- QD_T4_01_00_DEC (R147 under the default classes). -/
def execQdT4 (u : KnobUpdate) (s : State) : Host.Outcome State Fault Refusal := s.transition u 0b01#2 0b00#2

/-- QD_T5_01_01_HOLD (R145 under the default classes). -/
def execQdT5 (u : KnobUpdate) (s : State) : Host.Outcome State Fault Refusal := s.transition u 0b01#2 0b01#2

/-- QD_T6_01_10_SKIP (R148 under the default classes). -/
def execQdT6 (u : KnobUpdate) (s : State) : Host.Outcome State Fault Refusal := s.transition u 0b01#2 0b10#2

/-- QD_T7_01_11_INC (R146 under the default classes). -/
def execQdT7 (u : KnobUpdate) (s : State) : Host.Outcome State Fault Refusal := s.transition u 0b01#2 0b11#2

/-- QD_T8_10_00_INC (R146 under the default classes). -/
def execQdT8 (u : KnobUpdate) (s : State) : Host.Outcome State Fault Refusal := s.transition u 0b10#2 0b00#2

/-- QD_T9_10_01_SKIP (R148 under the default classes). -/
def execQdT9 (u : KnobUpdate) (s : State) : Host.Outcome State Fault Refusal := s.transition u 0b10#2 0b01#2

/-- QD_TA_10_10_HOLD (R145 under the default classes). -/
def execQdTA (u : KnobUpdate) (s : State) : Host.Outcome State Fault Refusal := s.transition u 0b10#2 0b10#2

/-- QD_TB_10_11_DEC (R147 under the default classes). -/
def execQdTB (u : KnobUpdate) (s : State) : Host.Outcome State Fault Refusal := s.transition u 0b10#2 0b11#2

/-- QD_TC_11_00_SKIP (R148 under the default classes). -/
def execQdTC (u : KnobUpdate) (s : State) : Host.Outcome State Fault Refusal := s.transition u 0b11#2 0b00#2

/-- QD_TD_11_01_DEC (R147 under the default classes). -/
def execQdTD (u : KnobUpdate) (s : State) : Host.Outcome State Fault Refusal := s.transition u 0b11#2 0b01#2

/-- QD_TE_11_10_INC (R146 under the default classes). -/
def execQdTE (u : KnobUpdate) (s : State) : Host.Outcome State Fault Refusal := s.transition u 0b11#2 0b10#2

/-- QD_TF_11_11_HOLD (R145 under the default classes). -/
def execQdTF (u : KnobUpdate) (s : State) : Host.Outcome State Fault Refusal := s.transition u 0b11#2 0b11#2

end Sys2Proof.Machine
end

