-- ==== Sys2Proof/Machine/Reserved.lean ====
section
/-! DEFINITION. The reserved event codes 0xA to 0xF: each selects no step, sets `refused` and changes nothing else,
in any state (R121, log entry 6). -/

namespace Sys2Proof.Machine

/-- Reserved event code 0xA (R121). -/
def execReservedA (s : State) : Host.Outcome State Fault Refusal := .next s.markRefused

/-- Reserved event code 0xB (R121). -/
def execReservedB (s : State) : Host.Outcome State Fault Refusal := .next s.markRefused

/-- Reserved event code 0xC (R121). -/
def execReservedC (s : State) : Host.Outcome State Fault Refusal := .next s.markRefused

/-- Reserved event code 0xD (R121). -/
def execReservedD (s : State) : Host.Outcome State Fault Refusal := .next s.markRefused

/-- Reserved event code 0xE (R121). -/
def execReservedE (s : State) : Host.Outcome State Fault Refusal := .next s.markRefused

/-- Reserved event code 0xF (R121). -/
def execReservedF (s : State) : Host.Outcome State Fault Refusal := .next s.markRefused

end Sys2Proof.Machine
end

