-- ==== Sys2Proof/Machine/Synth.lean ====
section
/-! DEFINITION. The phase-accumulator synthesizer: SAMPLE_TICK (43_synth.md). -/

namespace Sys2Proof.Machine

/-- The phase after one tick: unsigned, modulo `2^PHASE_W` (R231); n ticks with a constant step size add n steps (R237
L1, `nextPhase_iterate`). -/
def nextPhase (c : Config) (ph step : Nat) : Nat := (ph + step) % 2 ^ c.phaseW

/-- The raw sample: the top `SAMPLE_BITS` bits of a phase (R113). -/
def rawSample (c : Config) (ph : Nat) : Nat := ph / 2 ^ (c.phaseW - c.sampleBits)

/-- The centered sample (R113). -/
def centered (c : Config) (ph : Nat) : Int := (rawSample c ph : Int) - (2 : Int) ^ (c.sampleBits - 1)

/-- The volume shift `MAX_VOLUME - rot` (R111, R232). -/
def volumeShift (c : Config) (rot : Nat) : Nat := c.maxVolume - rot

/-- The output sample of a phase at a rotation: the centered sample shifted right arithmetically (R232). It
stays in the register's range (R233, R237 L2, `sampleOf_range`), and for a fixed centered sample its magnitude does not
grow as the rotation falls (R237 L3, `sampleOf_natAbs_le`). -/
def sampleOf (c : Config) (ph rot : Nat) : Int := asr (centered c ph) (volumeShift c rot)

/-- SAMPLE_TICK (R230): the sample comes from the phase after the add. It writes `syn_phase` and `audio_out` and no
other state (R237 L4, `State.sample_frame`). -/
def State.sample (s : State) : State :=
  let ph := nextPhase s.cfg s.synPhase s.loadStep
  s.setSample ph (sampleOf s.cfg ph (s.getRotation s.cfg.volKnob))

/-- SAMPLE_TICK, event code 0x3 (R230); it never holds but when halted (R234). -/
def execSampleTick (s : State) : Host.Outcome State Fault Refusal :=
  s.gate (s.run s.eventEnabled s.sample)

end Sys2Proof.Machine
end

