-- ==== Sys2Proof/Machine/Dispatch.lean ====
section
/-! DEFINITION. What each instruction does: one arm a constructor, each one call of its meaning. -/

namespace Sys2Proof.Machine

def exec (i : Instr) (s : State) : Host.Outcome State Fault Refusal :=
  match i with
  | .scanCapture m => Sys2Proof.Machine.execScanCapture m s
  | .scanEmit => Sys2Proof.Machine.execScanEmit s
  | .scanCommit => Sys2Proof.Machine.execScanCommit s
  | .sampleTick => Sys2Proof.Machine.execSampleTick s
  | .txDeq => Sys2Proof.Machine.execTxDeq s
  | .txIssue => Sys2Proof.Machine.execTxIssue s
  | .txDone => Sys2Proof.Machine.execTxDone s
  | .rxFrame a data => Sys2Proof.Machine.execRxFrame a data s
  | .mdStep => Sys2Proof.Machine.execMdStep s
  | .displayRead => Sys2Proof.Machine.execDisplayRead s
  | .reservedA => Sys2Proof.Machine.execReservedA s
  | .reservedB => Sys2Proof.Machine.execReservedB s
  | .reservedC => Sys2Proof.Machine.execReservedC s
  | .reservedD => Sys2Proof.Machine.execReservedD s
  | .reservedE => Sys2Proof.Machine.execReservedE s
  | .reservedF => Sys2Proof.Machine.execReservedF s
  | .qdT0 u => Sys2Proof.Machine.execQdT0 u s
  | .qdT1 u => Sys2Proof.Machine.execQdT1 u s
  | .qdT2 u => Sys2Proof.Machine.execQdT2 u s
  | .qdT3 u => Sys2Proof.Machine.execQdT3 u s
  | .qdT4 u => Sys2Proof.Machine.execQdT4 u s
  | .qdT5 u => Sys2Proof.Machine.execQdT5 u s
  | .qdT6 u => Sys2Proof.Machine.execQdT6 u s
  | .qdT7 u => Sys2Proof.Machine.execQdT7 u s
  | .qdT8 u => Sys2Proof.Machine.execQdT8 u s
  | .qdT9 u => Sys2Proof.Machine.execQdT9 u s
  | .qdTA u => Sys2Proof.Machine.execQdTA u s
  | .qdTB u => Sys2Proof.Machine.execQdTB u s
  | .qdTC u => Sys2Proof.Machine.execQdTC u s
  | .qdTD u => Sys2Proof.Machine.execQdTD u s
  | .qdTE u => Sys2Proof.Machine.execQdTE u s
  | .qdTF u => Sys2Proof.Machine.execQdTF u s
  | .framePress o n r3 r4 r5 r6 l => Sys2Proof.Machine.execFramePress o n r3 r4 r5 r6 l s
  | .frameRelease o n r3 r4 r5 r6 l => Sys2Proof.Machine.execFrameRelease o n r3 r4 r5 r6 l s
  | .txEnq f => Sys2Proof.Machine.execTxEnq f s
  | .rxDeq => Sys2Proof.Machine.execRxDeq s
  | .qdStep u c => Sys2Proof.Machine.execQdStep u c s

end Sys2Proof.Machine
end

