-- ==== Sys2Proof/Machine/Fetch.lean ====
section
/-! DEFINITION. Where a step finds its operation. The block fetches nothing and has no program counter (R50, R87):
which event comes next is the environment's choice (R47), held in the state as the trace of events still to
come (R125, log entry 5). -/

namespace Sys2Proof.Machine

/-- The next event of the trace. -/
def State.fetch (s : State) : Decoded := decode s.cfg s.trace

/-- The outcome of a trace whose next bytes are no instruction, by name (log entry 7). -/
def rejected : DecodeError → Host.Outcome State Fault Refusal
  | .undefinedWord b => .refused (.undefinedWord b)
  | .truncated => .fault .truncatedTrace
  | .operandRange => .refused .operandRange

/-- The environment offers one table word as the next event. -/
def State.offerWord (s : State) (nbits w : Nat) : State := s.setTrace (tableWordBytes s.cfg nbits w)

/-- The environment offers these operations, in this order. -/
def State.offer (s : State) (is : List Instr) : State := s.setTrace (is.flatMap (encode s.cfg))

end Sys2Proof.Machine
end

