-- ==== Sys2Proof/Machine/Step.lean ====
section
/-! DEFINITION. One step of the machine: the next event of the trace is taken and run. -/

namespace Sys2Proof.Machine

/-- One step. With no event offered nothing happens. An event that is not enabled holds: the trace does not
continue past it (R125). Any other event leaves the trace and runs (R83: one atomic step). -/
def step (s : State) : Host.Outcome State Fault Refusal :=
  match s.fetch with
  | .empty => .next s
  | .reject e => rejected e
  | .instr i rest => if holds i s then .next s else exec i (s.setTrace rest)

/-- The state in which the next step takes the instruction of a table word. -/
def State.withFetchWord (s : State) (nbits w : Nat) : State := s.offerWord nbits w

end Sys2Proof.Machine
end

