-- ==== Sys2Proof/Machine/Trace.lean ====
section
/-! DEFINITION. The trace syntax of R125 and the pseudo-events of R126: how a run of the block is written. -/

namespace Sys2Proof.Machine

/-- The trace's key word of an operation that has an event code and a line (R125). -/
def traceWord : Instr → Option String
  | .scanCapture _ => some "scan"
  | .scanEmit => some "emit"
  | .scanCommit => some "commit"
  | .sampleTick => some "sample"
  | .txDeq => some "txdeq"
  | .txIssue => some "txissue"
  | .txDone => some "txdone"
  | .rxFrame _ _ => some "rx"
  | .mdStep => some "md"
  | .displayRead => some "disp"
  | .reservedA => none
  | .reservedB => none
  | .reservedC => none
  | .reservedD => none
  | .reservedE => none
  | .reservedF => none
  | .qdT0 _ => none
  | .qdT1 _ => none
  | .qdT2 _ => none
  | .qdT3 _ => none
  | .qdT4 _ => none
  | .qdT5 _ => none
  | .qdT6 _ => none
  | .qdT7 _ => none
  | .qdT8 _ => none
  | .qdT9 _ => none
  | .qdTA _ => none
  | .qdTB _ => none
  | .qdTC _ => none
  | .qdTD _ => none
  | .qdTE _ => none
  | .qdTF _ => none
  | .framePress _ _ _ _ _ _ _ => none
  | .frameRelease _ _ _ _ _ _ _ => none
  | .txEnq _ => none
  | .rxDeq => none
  | .qdStep _ _ => none

/-- A hex digit, upper case as the spec writes them. -/
def hexDigit (n : Nat) : Char := "0123456789ABCDEF".toList.getD n '?'

/-- `n` hex digits of a number, the most significant first. -/
def hexDigits : Nat → Nat → List Char
  | 0, _ => []
  | n + 1, v => hexDigits n (v / 16) ++ [hexDigit (v % 16)]

/-- A trace line's operands: the snapshot, or the identifier and the bytes, in hex (R125). -/
def traceOperands (c : Config) : Instr → List String
  | .scanCapture m => ["0x" ++ String.ofList (hexDigits ((c.snapW + 3) / 4) m)]
  | .rxFrame a data =>
    ("0x" ++ String.ofList (hexDigits ((c.busIdW + 3) / 4) a.id)) ::
      data.map fun b => String.ofList (hexDigits 2 b.toNat)
  | _ => []

/-- The trace line of an operation (R125); none for one that has no line. -/
def traceLine (c : Config) (i : Instr) : Option String :=
  (traceWord i).map fun w => (traceOperands c i).foldl (fun l o => l ++ " " ++ o) w

/-- The pseudo-event `cycle <F>` (R126): the capture, one emit for each set bit of the edge mask, the commit. -/
def State.cycleLines (s : State) (m : Nat) : List Instr :=
  .scanCapture m ::
    (List.replicate (popcount s.cfg.nNoteKeys (edgeMask s.cfg (assemble s.cfg m) s.scPrev)) .scanEmit ++
      [.scanCommit])

/-- The pseudo-event `send` (R126). -/
def sendLines : List Instr := [.txDeq, .txIssue]

/-- The pseudo-event `<n> × ...` (R126). -/
def timesLines (n : Nat) (l : List Instr) : List Instr := (List.replicate n l).flatten

/-- The snapshot `keys ks knob code` (R126): all released, the note keys of `ks` at the pressed level, and the
phase bits of knob 0 equal to the code. -/
def keysKnob (c : Config) (ks : List Nat) (code : PhaseCode) : Nat :=
  bitsOf c.snapW fun i =>
    if i = c.qdABit.getD 0 0 then code.getLsbD 0
    else if i = c.qdBBit.getD 0 0 then code.getLsbD 1
    else if ks.contains i && decide (i < c.nNoteKeys) then !releasedLevel c
    else releasedLevel c

end Sys2Proof.Machine
end

