-- ==== Sys2Proof/Safety.lean ====
section
/-! DEFINITION. What the statements speak of: the invariant of the states a run can reach, the writer table of R54
as groups of elements, the streams of frames through the two paths, and runs of operations in any order the
environment chooses (R83). -/

namespace Sys2Proof.Machine

/-- A snapshot register's value is a `SNAP_W`-bit vector whose unsampled bits hold `RELEASED_LEVEL` (R102). -/
def snapshotOk (c : Config) (v : Nat) : Prop :=
  v < 2 ^ c.snapW ∧ ∀ i, c.nRows * c.nCols ≤ i → i < c.snapW → v.testBit i = releasedLevel c

/-- A frame of the size R104 gives it: `BUS_ID_W` bits of identifier and `FRAME_BYTES` payload bytes (R8). -/
def frameOk (c : Config) (f : Frame) : Prop := f.id < 2 ^ c.busIdW ∧ f.data.length = c.frameBytes

/-- A frame the scanner builds: `mkFrame` of a kind and of a note key (R109, R270). -/
def scannerFrame (c : Config) (f : Frame) : Prop :=
  ∃ kind note, (kind = kindPress ∨ kind = kindRelease) ∧ note < c.nNoteKeys ∧ f = mkFrame c kind note

/-- Every element is in the width or range its rule gives it (R30 to R44), every stored frame has the size of R104, and
no own frame is to arrive without `LOOPBACK` (R313), under a legal configuration. -/
structure InRange (s : State) : Prop where
  cfgLegal : legal s.cfg = true
  knobCount : s.knobs.length = s.cfg.nKnobs
  rotations : ∀ n ∈ s.knobs, n.rot ≤ s.cfg.rotMax
  scPrev : snapshotOk s.cfg s.scPrev
  scFresh : s.scFresh < 2 ^ s.cfg.snapW
  scFreshBusy : s.scBusy = true → snapshotOk s.cfg s.scFresh
  scStep : s.scStep < 2 ^ s.cfg.phaseW
  scEmit : s.scEmit < 2 ^ s.cfg.nNoteKeys
  ssInputs : snapshotOk s.cfg s.ssInputs
  ssStep : s.ssStep < 2 ^ s.cfg.phaseW
  synPhase : s.synPhase < 2 ^ s.cfg.phaseW
  audioLow : -(2 : Int) ^ (s.cfg.sampleBits - 1) ≤ s.audioOut
  audioHigh : s.audioOut ≤ (2 : Int) ^ (s.cfg.sampleBits - 1) - 1
  txqBound : s.txq.length ≤ s.cfg.txqCap
  mboxBound : s.mboxAvail ≤ s.cfg.mboxN
  rxqBound : s.rxq.length ≤ s.cfg.rxqCap
  txqFrames : ∀ f ∈ s.txq, frameOk s.cfg f
  holdFrame : frameOk s.cfg s.txHoldFrame
  rxqFrames : ∀ f ∈ s.rxq, frameOk s.cfg f ∧ f.id = s.cfg.busId
  cacheFrame : ∀ f, s.mdCache = some f → frameOk s.cfg f
  pendingFrames : ∀ f ∈ s.ownPending, frameOk s.cfg f
  pendingLoopback : s.cfg.loopback = false → s.ownPending = []

/-- Every frame in the transmit path was built by the scanner (R270). -/
def txBuilt (s : State) : Prop :=
  (∀ f ∈ s.txq, scannerFrame s.cfg f) ∧ (s.txHoldValid = true → scannerFrame s.cfg s.txHoldFrame) ∧
    ∀ f ∈ s.busTx, scannerFrame s.cfg f

/-! ### The writer table (R54): equality of two states on the elements of one writer -/

/-- The scanner elements `sc_*`. -/
def sameSc (s t : State) : Prop :=
  t.scPrev = s.scPrev ∧ t.scBusy = s.scBusy ∧ t.scFresh = s.scFresh ∧ t.scStep = s.scStep ∧
    t.scEmit = s.scEmit

/-- The synthesizer elements. -/
def sameSyn (s t : State) : Prop := t.synPhase = s.synPhase ∧ t.audioOut = s.audioOut

/-! ### The effect of a decoder update, as R145 to R148 say it -/

/-- The class of the transition from code `p` to code `c`: `QD_CLASS[{p, c}]` (R101, R143). -/
def transClass (c : Config) (p code : PhaseCode) : QdClass := classOf c (4 * p.toNat + code.toNat)

/-- What one decoder update makes of a knob whose rotation is in range, class by class (R145 to R148). -/
def knobEffect (c : Config) (n : Knob) (code : PhaseCode) (n' : Knob) : Prop :=
  n'.prev = code ∧
    match transClass c n.prev code with
    | .hold => n'.dir = n.dir ∧ n'.rot = n.rot
    | .inc => n'.dir = .plus ∧ n'.rot = min (n.rot + 1) c.rotMax
    | .dec => n'.dir = .minus ∧ n'.rot = n.rot - 1
    | .skip =>
      n'.dir = n.dir ∧
        n'.rot = match n.dir with
          | .plus => min (n.rot + c.qdSkipWeight) c.rotMax
          | .minus => n.rot - c.qdSkipWeight

/-- The condition a transition raises: QuadSkip on a SKIP, else none (R370 code 4). -/
def skipRaised (c : Config) (p code : PhaseCode) : List Condition :=
  if transClass c p code = .skip then [.quadSkip] else []

/-- `t` is `s` after one decoder update of knob `k`, which stood at `n`: that knob, the condition, nothing else. -/
def qdEffect (s : State) (k : Nat) (n : Knob) (code : PhaseCode) (t : State) : Prop :=
  ∃ n', knobEffect s.cfg n code n' ∧
    t = { s with knobs := s.knobs.set k n', raised := s.raised ++ skipRaised s.cfg n.prev code }

/-! ### Streams of frames -/

/-- Every frame that entered the transmit path, oldest first: emitted, held, queued (R280 L1). -/
def State.txStream (s : State) : List Frame :=
  s.busTx ++ (if s.txHoldValid then [s.txHoldFrame] else []) ++ s.txq

/-- Every frame that entered the receive FIFO, oldest first: handed out, queued (R316 L1). -/
def State.rxStream (s : State) : List Frame := s.rxOut ++ s.rxq

/-- The frame an operation pushes into the transmit FIFO in a state: SCAN_EMIT, or TX_ENQ as its name, pushes one
where it completes, nothing else pushes (R270). -/
def pushedAt (i : Instr) (s : State) : List Frame :=
  if legal s.cfg then
    match i with
    | .scanEmit => if s.emitEnabled then s.emitFrame.toList else []
    | .txEnq f => if s.txEnqEnabled f then [f] else []
    | _ => []
  else []

/-- The frame an operation emits on `bus_tx` in a state: TX_ISSUE's, where it completes (R276). -/
def emittedAt (i : Instr) (s : State) : List Frame :=
  match i with
  | .txIssue => if legal s.cfg && s.txIssueEnabled then [s.txHoldFrame] else []
  | _ => []

/-- The frame of the node's own that an operation lets arrive in a state (R313). -/
def ownArrivedAt (i : Instr) (s : State) : List Frame :=
  match i with
  | .rxFrame ⟨.own, id⟩ data =>
    if legal s.cfg && s.rxEnabled .own ⟨id, data⟩ && data.length == s.cfg.frameBytes then [⟨id, data⟩] else []
  | _ => []

/-- The frame an operation brings past the acceptance filter (R310). -/
def arrivedAt (i : Instr) (s : State) : List Frame :=
  match i with
  | .rxFrame ⟨o, id⟩ data =>
    if legal s.cfg && s.rxEnabled o ⟨id, data⟩ && data.length == s.cfg.frameBytes && id == s.cfg.busId then
      [⟨id, data⟩]
    else []
  | _ => []

/-- The frame among these that finds room in the receive FIFO (R310). -/
def acceptedAt (i : Instr) (s : State) : List Frame := if s.rxFull then [] else arrivedAt i s

/-! ### Runs -/

/-- Run operations one after another by `exec`, to a next state each; none where one stops. An operation that
holds leaves the state as it is. -/
def runAll : List Instr → State → Option State
  | [], s => some s
  | i :: is, s =>
    match exec i s with
    | .next t => runAll is t
    | .fault _ => none
    | .refused _ => none

/-- What the operations of a run contribute, in order. -/
def collect (f : Instr → State → List Frame) : List Instr → State → List Frame
  | [], _ => []
  | i :: is, s =>
    f i s ++ match exec i s with
      | .next t => collect f is t
      | .fault _ => []
      | .refused _ => []

/-- How many frames a run has issued and not had completed, from `n` in flight at its start, while the
environment keeps its TX_DONE duty: one completion for each issued frame (R347). None where it does not. -/
def outstanding : List Instr → State → Nat → Option Nat
  | [], _, n => some n
  | i :: is, s, n =>
    match exec i s with
    | .next t =>
      if i = .txDone ∧ s.halted = false then (if n = 0 then none else outstanding is t (n - 1))
      else if i = .txIssue ∧ s.txIssueEnabled = true then outstanding is t (n + 1)
      else outstanding is t n
    | .fault _ => none
    | .refused _ => none

/-- Weak fairness of one step kind: a step that stays enabled eventually runs (R431). -/
def weaklyFair (σ : Nat → State) (ev : Nat → Instr) (en : State → Bool) (kind : Instr → Bool) : Prop :=
  ∀ n, (∀ m, n ≤ m → en (σ m) = true) → ∃ m, n ≤ m ∧ kind (ev m) = true

/-- An infinite run: one operation a step, each to a next state (R83), weakly fair for every step kind R431
names, with the TX_DONE duty of R347: while a frame is in flight a completion comes. -/
structure FairRun (σ : Nat → State) (ev : Nat → Instr) : Prop where
  steps : ∀ n, exec (ev n) (σ n) = .next (σ (n + 1))
  capture : weaklyFair σ ev State.captureEnabled fun i => match i with | .scanCapture _ => true | _ => false
  emit : weaklyFair σ ev State.emitEnabled fun i => i == .scanEmit
  commit : weaklyFair σ ev State.commitEnabled fun i => i == .scanCommit
  sample : weaklyFair σ ev State.eventEnabled fun i => i == .sampleTick
  txDeq : weaklyFair σ ev State.txDeqEnabled fun i => i == .txDeq
  txIssue : weaklyFair σ ev State.txIssueEnabled fun i => i == .txIssue
  mdStep : weaklyFair σ ev State.rxDeqEnabled fun i => i == .mdStep
  display : weaklyFair σ ev State.eventEnabled fun i => i == .displayRead
  doneDuty : ∀ n, (σ n).mboxAvail < (σ n).cfg.mboxN → ∃ m, n ≤ m ∧ ev m = .txDone

/-- The events of R120 that are enabled in a state, operands left out (R410). -/
def enabledEvents (s : State) : List Bool :=
  [s.captureEnabled, s.emitEnabled, s.commitEnabled, s.eventEnabled, s.txDeqEnabled, s.txIssueEnabled,
   s.eventEnabled, s.eventEnabled, s.rxDeqEnabled, s.eventEnabled]

/-- The source's ranking of the contexts, 0 the highest (R373); every order is admitted (R374), so no step reads
it: it serves a claim that names the scheduler it assumes (log entry 13). -/
def priority : Agent → Nat
  | .sampleTimer => 0
  | .rxEvent => 1
  | .txComplete => 1
  | .txEngine => 2
  | .messageDecoder => 2
  | .scanner => 3
  | .display => 3

end Sys2Proof.Machine
end

