-- ==== Sys2Proof/Certificates/Slice0/Obligations.lean ====
section
/-! DEFINITION. The statements for the provers, file by file of the spec. A premise `legal s.cfg = true` is R9: the
model gives no other configuration a meaning. -/

open Sys2Proof Sys2Proof.Machine

/-! ### Encoding (30_encoding.md) -/

/-- Decoding an encoded well-formed operation gives it back, with the bytes after it left over: no operand bit is
dropped, whatever the configuration's widths. The byte layout is the model's (log entry 7). -/
def Obligations.DecodeEncodeRoundTrip : Prop :=
  ∀ (c : Config) (i : Instr) (rest : List Byte), i.wf c = true →
    decode c (encode c i ++ rest) = .instr i rest

/-- Whatever decodes is well-formed and is that operation's encoding: no second spelling, no operand out of range
(R120, R122; the layout is log entry 7). -/
def Obligations.DecodeReadsOnlyEncodings : Prop :=
  ∀ (c : Config) (bs : List Byte) (i : Instr) (rest : List Byte), decode c bs = .instr i rest →
    i.wf c = true ∧ bs = encode c i ++ rest

/-- Every event code of R120 and R121, 0x0 to 0xF, with the operands R120 gives two of them, decodes to its operation
under the default widths, as do a decoder transition (R101) and a Press frame whose later bytes are octave 4, note 5
(R104, R109). -/
def Obligations.TableWordsDecode : Prop :=
  decode Config.default [0x00#8, 0xDF#8, 0xCF#8, 0xFF#8, 0xFF#8] = .instr (.scanCapture 0xFFFFCFDF) [] ∧
    decode Config.default [0x01#8, 0x02#8] = .instr .scanEmit [0x02#8] ∧
    decode Config.default [0x02#8] = .instr .scanCommit [] ∧
    decode Config.default [0x03#8] = .instr .sampleTick [] ∧
    decode Config.default [0x04#8] = .instr .txDeq [] ∧
    decode Config.default [0x05#8] = .instr .txIssue [] ∧
    decode Config.default [0x06#8] = .instr .txDone [] ∧
    decode Config.default
        [0x07#8, 0x23#8, 0x01#8, 0x00#8, 0x50#8, 0x04#8, 0x05#8, 0#8, 0#8, 0#8, 0#8, 0#8] =
      .instr (.rxFrame ⟨.peer, 0x123⟩ [0x50#8, 0x04#8, 0x05#8, 0#8, 0#8, 0#8, 0#8, 0#8]) [] ∧
    decode Config.default [0x08#8] = .instr .mdStep [] ∧
    decode Config.default [0x09#8] = .instr .displayRead [] ∧
    decode Config.default [0x0A#8] = .instr .reservedA [] ∧
    decode Config.default [0x0B#8] = .instr .reservedB [] ∧
    decode Config.default [0x0C#8] = .instr .reservedC [] ∧
    decode Config.default [0x0D#8] = .instr .reservedD [] ∧
    decode Config.default [0x0E#8] = .instr .reservedE [] ∧
    decode Config.default [0x0F#8] = .instr .reservedF [] ∧
    decode Config.default [0x50#8, 0x04#8, 0x05#8, 0#8, 0#8, 0#8, 0#8, 0#8] =
      .instr (.framePress 0x04#8 0x05#8 0#8 0#8 0#8 0#8 [0#8]) [] ∧
    decode Config.default [0x13#8, 0x00#8, 0xFF#8, 0xFF#8, 0xFF#8, 0xFF#8] = .instr (.qdT3 ⟨0, 0xFFFFFFFF⟩) []

/-- `mkFrame` (R109): the deployment's identifier, then kind, octave and note, then zeros up to `FRAME_BYTES` bytes;
with 8 of them the payload of R109. That R109's five zeros become `FRAME_BYTES - 3` is the model's reading (log entry
14). -/
def Obligations.FrameConstruction : Prop :=
  ∀ (c : Config) (kind : Byte) (note : Nat), legal c = true →
    (mkFrame c kind note).id = c.busId ∧ (mkFrame c kind note).data.length = c.frameBytes ∧
      (∃ r, (mkFrame c kind note).data = kind :: c.octaveTx :: BitVec.ofNat 8 note :: r ∧ ∀ b ∈ r, b = 0#8) ∧
      (c.frameBytes = 8 →
        (mkFrame c kind note).data = [kind, c.octaveTx, BitVec.ofNat 8 note, 0#8, 0#8, 0#8, 0#8, 0#8])

/-- A reserved event code selects no step: it sets `refused` and changes nothing else (R121), with R370's code 5 as
the condition's record. That this holds of a halted state too, where R376 says the state stays, is the model's choice
(log entry 6). -/
def Obligations.ReservedCodesAreRefused : Prop :=
  ∀ (s : State) (i : Instr),
    i ∈ [Instr.reservedA, .reservedB, .reservedC, .reservedD, .reservedE, .reservedF] →
      exec i s = .next { s with refused := true, raised := s.raised ++ [.refused] }

/-! ### One step (30_encoding.md R125, 20_memory.md R83, 00_scope.md R13) -/

/-- When the bytes at the head of the trace decode to an operation, the step is that operation's meaning on the state
whose trace goes on behind it; an operation that is not enabled waits, and the trace does not continue past it (R125).
With no event offered nothing happens (log entry 5). -/
def Obligations.StepRunsDecodedOperation : Prop :=
  (∀ (s : State) (i : Instr) (rest : List Byte), i.wf s.cfg = true → decode s.cfg s.trace = .instr i rest →
      (holds i s = false → step s = exec i { s with trace := rest }) ∧
      (holds i s = true → step s = .next s ∧ exec i s = .next s)) ∧
    ∀ s : State, s.trace = [] → step s = .next s

/-- No operation the decoder reads stops the machine: a step that answers no next state met bytes that are no
operation at all (log entry 7). -/
def Obligations.StepStopsOnlyOnNonOperations : Prop :=
  ∀ s : State, (∀ t, step s ≠ .next t) → ∃ e, decode s.cfg s.trace = .reject e

/-! ### Invariants of every step (10_state.md) -/

/-- Every element stays in the width or range its rule gives it, and every stored frame in its size, in every step
from every state that meets the invariant (R30 to R44, R102, R104, R144, R233, R316 L3). -/
def Obligations.StepKeepsInvariant : Prop :=
  ∀ s t : State, InRange s → step s = .next t → InRange t

/-- The state after reset meets the invariant, under every legal configuration and whatever the unspecified elements
hold. -/
def Obligations.ResetMeetsInvariant : Prop :=
  (∀ (c : Config) (u : Unspecified), legal c = true → InRange (State.resetWith c u)) ∧ InRange State.reset

/-- Every frame in the transmit FIFO, the holding register and the port `bus_tx` was built by `mkFrame` for a note
key, and nothing but SCAN_EMIT pushes `txq`: a step that makes it longer is an enabled SCAN_EMIT's, whether the
operation is named by its event code or by its push TX_ENQ (R270, R271). -/
def Obligations.EventsSendOnlyScannerFrames : Prop :=
  ∀ (s t : State) (i : Instr) (rest : List Byte), InRange s → txBuilt s → decode s.cfg s.trace = .instr i rest →
    step s = .next t →
      txBuilt t ∧
        (t.txq = s.txq ∨ t.txq = s.txq.tail ∨
          (∃ f, scannerFrame s.cfg f ∧ t.txq = s.txq ++ [f] ∧ (i = .scanEmit ∨ i = .txEnq f)) ∧
            enabled .scanEmit s = true ∧ exec .scanEmit { s with trace := rest } = .next t)

/-- No step halts the block or releases it, no step changes a parameter (R47), and the mark of a refused step stays
(R45). -/
def Obligations.HaltAndParametersAreFixed : Prop :=
  ∀ s t : State, step s = .next t →
    t.halted = s.halted ∧ t.cfg = s.cfg ∧ (s.refused = true → t.refused = true)

/-- While `halted` is 1 no step of any agent is enabled, and the state stays (R376). A reserved code and a payload not
of `FRAME_BYTES` bytes are no agent's step: that they mark `refused` even here is the model's choice (log entry 6). -/
def Obligations.HaltedBlockTakesNoStep : Prop :=
  ∀ (s : State) (i : Instr), legal s.cfg = true → s.halted = true → i.wf s.cfg = true → i.agent ≠ none →
    (∀ a data, i = .rxFrame a data → data.length = s.cfg.frameBytes) → enabled i s = false ∧ exec i s = .next s

/-- A configuration that breaks a constraint is refused and given no meaning: every operation only sets the mark (R9,
R370 code 5), and the mark is set before the run. Two points of it are the model's: that the mark is set of a halted
state too, before anything else (log entry 6), and the constraints of `legal` that R9 does not list, such as the
lengths of the parameter tables, `BUS_ID` in its width and a `FRAME_BYTES` of at least 8 (log entry 12). -/
def Obligations.IllegalConfigurationIsRefused : Prop :=
  (∀ (s : State) (i : Instr), legal s.cfg = false →
      exec i s = .next { s with refused := true, raised := s.raised ++ [.refused] }) ∧
    ∀ (c : Config) (u : Unspecified), legal c = false → (State.resetWith c u).refused = true

/-- A step table is legal exactly when it has 12 entries that meet R116 (a), (b) and, in real arithmetic, (c). -/
def Obligations.LegalStepTableIsSemitones : Prop :=
  ∀ c : Config, stepTableLegal c = true ↔
    c.stepTable.length = 12 ∧
      (∀ n, n < 12 → 0 < c.stepTable.getD n 0 ∧ c.stepTable.getD n 0 < 2 ^ c.phaseW) ∧
      (∀ n, n < 11 → c.stepTable.getD n 0 < c.stepTable.getD (n + 1) 0) ∧
      ∀ n, n < 11 →
        |((c.stepTable.getD (n + 1) 0 : ℕ) : ℝ) - (c.stepTable.getD n 0 : ℕ) * (2 : ℝ) ^ ((1 : ℝ) / 12)| ≤ 1

/-- The parameter values R8 gives meet R9, R116 and R141. -/
def Obligations.DefaultConfigurationIsLegal : Prop := legal Config.default = true

/-! ### Reset (10_state.md R48, 70_reset_and_hazards.md) -/

/-- Every element at the reset value of R48 under every legal configuration, `halted` set and InitFailure raised
exactly when `INIT_OK` is false (R370 code 1), and, with `INIT_OK`, the steps R410 names are enabled and no other
event of R120 is. -/
def Obligations.ResetStateAndEnabledSteps : Prop :=
  ∀ (c : Config) (u : Unspecified), legal c = true →
    let s := State.resetWith c u
    (s.knobs.length = c.nKnobs ∧
        ∀ n ∈ s.knobs, n.prev = 0b00#2 ∧ n.dir = .plus ∧ n.rot = 0) ∧
      (∀ v, v = s.scPrev ∨ v = s.ssInputs →
        v < 2 ^ c.snapW ∧ ∀ i, i < c.snapW → v.testBit i = c.activeLow) ∧
      s.scBusy = false ∧ s.ssStep = 0 ∧ s.synPhase = 0 ∧ s.audioOut = 0 ∧ s.txq = [] ∧
      s.txHoldValid = false ∧ s.mboxAvail = c.mboxN ∧ s.rxq = [] ∧ s.rxDrop = 0#32 ∧
      s.halted = !c.initOk ∧ s.refused = false ∧ s.mdCache = none ∧
      (c.initOk = false → s.raised = [.initFailure]) ∧ (c.initOk = true → s.raised = []) ∧
      (c.initOk = true →
        (∀ m, enabled (.scanCapture m) s = true) ∧ enabled .sampleTick s = true ∧
          (∀ id data, enabled (.rxFrame ⟨.peer, id⟩ data) s = true) ∧ enabled .txDone s = true ∧
          enabled .displayRead s = true ∧ enabled .txDeq s = false ∧ enabled .mdStep s = false ∧
          enabled .scanEmit s = false ∧ enabled .scanCommit s = false ∧ enabled .txIssue s = false)

/-- An inference the spec marks as its own (R412). After reset: the first capture emits exactly the pressed keys; a
knob that rests at 11 moves up by the skip weight; a sample leaves the phase at 0 and, with the default widths, puts
out -1, code 127. -/
def Obligations.FirstStepsAfterReset : Prop :=
  ∀ (c : Config) (u : Unspecified), legal c = true → c.initOk = true →
    (∀ m, ∃ t, exec (.scanCapture m) (State.resetWith c u) = .next t ∧
        (∀ i, i < c.nNoteKeys → t.scEmit.testBit i = pressed c t.scFresh i) ∧
        ∀ k, k < c.nKnobs → phaseCode c t.scFresh k = 0b11#2 →
          t.getRotation k = min c.qdSkipWeight c.rotMax) ∧
      ∃ t, exec .sampleTick (State.resetWith c u) = .next t ∧ t.synPhase = 0 ∧
        (c.sampleBits = 8 → c.maxVolume = 8 → t.audioOut = -1 ∧ t.dacCode = 127)

/-! ### Knob decoder (41_knob_decoder.md) -/

/-- QD_STEP (R143), the update SCAN_CAPTURE makes, by class, on a knob whose rotation is in range: HOLD, INC, DEC and
SKIP as R145 to R148 say, the new code recorded on every class, QuadSkip raised on a SKIP, nothing else changed. -/
def Obligations.QdStepByClass : Prop :=
  ∀ (s : State) (k : Nat) (code : PhaseCode) (n : Knob), s.knobs[k]? = some n → n.rot ≤ s.cfg.rotMax →
    qdEffect s k n code (s.stepKnob k code)

/-- SCAN_CAPTURE runs QD_STEP exactly once for each knob, in ascending order, with the knob's phase code in the fresh
snapshot, and nothing else runs it: whatever operation changes a decoder element, its step is an enabled
SCAN_CAPTURE's (R140, R32). -/
def Obligations.KnobsStepOnlyInCapture : Prop :=
  (∀ (s : State) (m : Nat), legal s.cfg = true → s.halted = false → s.scBusy = false →
      ∃ t u, exec (.scanCapture m) s = .next t ∧
        u = (List.range s.cfg.nKnobs).foldl (fun v k => v.stepKnob k (phaseCode s.cfg t.scFresh k)) s ∧
        t.knobs = u.knobs ∧ t.raised = u.raised) ∧
    ∀ (i : Instr) (s t : State), exec i s = .next t → t.knobs ≠ s.knobs →
      ∃ m, enabled (.scanCapture m) s = true ∧ exec (.scanCapture m) s = .next t

/-- QD_STEP as a row of its own (log entry 8) is the SCAN_CAPTURE step that makes the named update: with the scanner
idle and the knob's phase code in the snapshot equal to the row's, it completes as that capture and moves the knob by
the class of its transition; inside a cycle, or with another code, it waits. -/
def Obligations.QdStepRowEffect : Prop :=
  ∀ (s : State) (u : KnobUpdate) (code : PhaseCode) (n : Knob), legal s.cfg = true → s.halted = false →
    u.knob < s.cfg.nKnobs → s.knobs[u.knob]? = some n → n.rot ≤ s.cfg.rotMax →
      (s.scBusy = false → phaseCode s.cfg (assemble s.cfg u.levels) u.knob = code →
        ∃ t n', exec (.qdStep u code) s = .next t ∧ exec (.scanCapture u.levels) s = .next t ∧
          t.knobs[u.knob]? = some n' ∧ knobEffect s.cfg n code n') ∧
      (s.scBusy = true ∨ phaseCode s.cfg (assemble s.cfg u.levels) u.knob ≠ code →
        exec (.qdStep u code) s = .next s)

/-- Each of the 16 transition rows (`qdT0` to `qdTF`, log entry 8) is the SCAN_CAPTURE step that moves the named knob
along its transition: it completes as that capture where the scanner is idle, the knob last sampled the row's previous
code (R101) and the snapshot has the row's new one, and waits elsewhere. -/
def Obligations.TransitionRowsByClass : Prop :=
  ∀ (s : State) (i : Instr) (u : KnobUpdate) (p code : PhaseCode) (n : Knob),
    i.transition = some (u, p, code) → legal s.cfg = true → s.halted = false → u.knob < s.cfg.nKnobs →
    s.knobs[u.knob]? = some n → n.rot ≤ s.cfg.rotMax →
      (s.scBusy = false → n.prev = p → phaseCode s.cfg (assemble s.cfg u.levels) u.knob = code →
        ∃ t n', exec i s = .next t ∧ exec (.scanCapture u.levels) s = .next t ∧
          t.knobs[u.knob]? = some n' ∧ knobEffect s.cfg n code n') ∧
      (s.scBusy = true ∨ n.prev ≠ p ∨ phaseCode s.cfg (assemble s.cfg u.levels) u.knob ≠ code →
        exec i s = .next s)

/-- After every QD_STEP of a capture the rotation is in [0, ROT_MAX], whatever it was: a sum below 0 gives 0, a sum
above ROT_MAX gives ROT_MAX, any other sum is exact (R144). -/
def Obligations.RotationSaturates : Prop :=
  ∀ (s : State) (m k : Nat) (n : Knob), legal s.cfg = true → s.halted = false → s.scBusy = false →
    k < s.cfg.nKnobs → s.knobs[k]? = some n →
      ∃ t n', exec (.scanCapture m) s = .next t ∧ t.knobs[k]? = some n' ∧ n'.rot ≤ s.cfg.rotMax ∧
        let d : Int := match transClass s.cfg n.prev (phaseCode s.cfg t.scFresh k) with
          | .hold => 0
          | .inc => 1
          | .dec => -1
          | .skip => match n.dir with
            | .plus => s.cfg.qdSkipWeight
            | .minus => -(s.cfg.qdSkipWeight : Int)
        ((n.rot : Int) + d < 0 → n'.rot = 0) ∧
          ((s.cfg.rotMax : Int) < n.rot + d → n'.rot = s.cfg.rotMax) ∧
          (0 ≤ (n.rot : Int) + d → (n.rot : Int) + d ≤ s.cfg.rotMax → (n'.rot : Int) = n.rot + d)

/-- An inference the spec marks as its own (R151 L5). With the default class table one full forward cycle of QD_STEPs
from code 00 raises the rotation by 4, saturating, with direction +1 and no skip. -/
def Obligations.ForwardTurnAddsFour : Prop :=
  ∀ (s : State) (k r : Nat) (d : Dir), s.cfg.qdClass = defaultQdClass → s.knobs[k]? = some ⟨0b00#2, d, r⟩ →
    r ≤ s.cfg.rotMax →
      (((s.stepKnob k 0b01#2).stepKnob k 0b11#2).stepKnob k 0b10#2).stepKnob k 0b00#2 =
        { s with knobs := s.knobs.set k ⟨0b00#2, .plus, min (r + 4) s.cfg.rotMax⟩ }

/-! ### Key scanner (42_key_scanner.md) -/

/-- SCAN_CAPTURE (R181): the snapshot of the sampled levels, the step size of the highest pressed note key (R183), the
edge mask (R182), each knob's decoder step from its phase bits (R100, R140), and nothing else. -/
def Obligations.CaptureEffect : Prop :=
  ∀ (s : State) (m : Nat), legal s.cfg = true → s.halted = false → s.scBusy = false →
    s.knobs.length = s.cfg.nKnobs → (∀ n ∈ s.knobs, n.rot ≤ s.cfg.rotMax) →
      ∃ t, exec (.scanCapture m) s = .next t ∧
        t = { s with knobs := t.knobs, scFresh := t.scFresh, scStep := t.scStep, scEmit := t.scEmit,
                     scBusy := true, raised := t.raised } ∧
        t.scFresh < 2 ^ s.cfg.snapW ∧
        (∀ i, i < s.cfg.snapW → t.scFresh.testBit i =
          if i < s.cfg.nRows * s.cfg.nCols then m.testBit i else releasedLevel s.cfg) ∧
        ((∀ i, i < s.cfg.nNoteKeys → pressed s.cfg t.scFresh i = false) → t.scStep = 0) ∧
        (∀ k, k < s.cfg.nNoteKeys → pressed s.cfg t.scFresh k = true →
          (∀ i, k < i → i < s.cfg.nNoteKeys → pressed s.cfg t.scFresh i = false) →
            s.cfg.stepTable[k]? = some t.scStep) ∧
        t.scEmit < 2 ^ s.cfg.nNoteKeys ∧
        (∀ i, i < s.cfg.nNoteKeys →
          t.scEmit.testBit i = (pressed s.cfg t.scFresh i != pressed s.cfg s.scPrev i)) ∧
        t.knobs.length = s.knobs.length ∧
        (∀ (k : Nat) (n : Knob) (a b : Nat), s.knobs[k]? = some n →
          s.cfg.qdABit[k]? = some a → s.cfg.qdBBit[k]? = some b →
          ∃ n', t.knobs[k]? = some n' ∧
            knobEffect s.cfg n (BitVec.ofBool (t.scFresh.testBit b) ++ BitVec.ofBool (t.scFresh.testBit a))
              n') ∧
        t.raised = s.raised ++
          (List.range s.cfg.nKnobs).flatMap fun k =>
            skipRaised s.cfg (s.knob k).prev (phaseCode s.cfg t.scFresh k)

/-- SCAN_EMIT (R184): `mkFrame` of the lowest pending key, Press if it is pressed in the fresh snapshot and Release
otherwise, goes to the tail of `txq`, and exactly that key's bit is cleared. -/
def Obligations.EmitEffect : Prop :=
  ∀ s : State, legal s.cfg = true → s.halted = false → s.scBusy = true → s.scEmit ≠ 0 →
    s.txq.length ≠ s.cfg.txqCap →
      ∃ i e, s.scEmit.testBit i = true ∧ (∀ j, j < i → s.scEmit.testBit j = false) ∧
        (∀ j, e.testBit j = (s.scEmit.testBit j && decide (j ≠ i))) ∧
        exec .scanEmit s = .next { s with
          scEmit := e
          txq := s.txq ++ [mkFrame s.cfg (if pressed s.cfg s.scFresh i then 0x50#8 else 0x52#8) i] }

/-- A cycle with a frame to submit holds on a full `txq`: no scanner step is enabled and none changes anything, while
a TX_DEQ into a free holding register makes room and enables SCAN_EMIT (R185; the last clause is an inference the spec
marks as its own, R281 (c)). -/
def Obligations.EmitHoldsOnFullFifo : Prop :=
  ∀ s : State, legal s.cfg = true → s.halted = false → s.scBusy = true → s.scEmit ≠ 0 →
    s.txq.length = s.cfg.txqCap →
      (∀ m, exec (.scanCapture m) s = .next s) ∧ exec .scanEmit s = .next s ∧ exec .scanCommit s = .next s ∧
        (s.txHoldValid = false → ∃ t, exec .txDeq s = .next t ∧ t.txq = s.txq.tail ∧
          enabled .scanEmit t = true)

/-- SCAN_COMMIT (R188): the snapshot and the step size are published together and the snapshot retained; nothing else
changes. -/
def Obligations.CommitEffect : Prop :=
  ∀ s : State, legal s.cfg = true → s.halted = false → s.scBusy = true → s.scEmit = 0 →
    exec .scanCommit s = .next { s with
      ssInputs := s.scFresh, ssStep := s.scStep, scPrev := s.scFresh, scBusy := false }

/-- Which scanner step is enabled (R180): capture when idle, emit while a frame is pending and `txq` has room, commit
when none is pending; so never two at once. A step that is not enabled changes nothing: a capture inside a cycle, an
emit or a commit outside one, an emit with no frame pending or on a full `txq`, a commit with a frame pending. -/
def Obligations.ScannerEnabling : Prop :=
  ∀ (s : State) (m : Nat), legal s.cfg = true → s.halted = false →
    (enabled (.scanCapture m) s = true ↔ s.scBusy = false) ∧
      (enabled .scanEmit s = true ↔ s.scBusy = true ∧ s.scEmit ≠ 0 ∧ s.txq.length ≠ s.cfg.txqCap) ∧
      (enabled .scanCommit s = true ↔ s.scBusy = true ∧ s.scEmit = 0) ∧
      (s.scBusy = true → exec (.scanCapture m) s = .next s) ∧
      (s.scBusy = false → exec .scanEmit s = .next s ∧ exec .scanCommit s = .next s) ∧
      (s.scBusy = true → s.scEmit = 0 ∨ s.txq.length = s.cfg.txqCap → exec .scanEmit s = .next s) ∧
      (s.scBusy = true → s.scEmit ≠ 0 → exec .scanCommit s = .next s)

/-- An inference the spec marks as its own (R191). A whole cycle that finds room (the pseudo-event `cycle` of R126)
pushes exactly one frame for each note key whose pressed state changed, in ascending order, Press or Release as the
key now is, and then publishes and retains the snapshot. -/
def Obligations.CycleSendsEachEdgeOnce : Prop :=
  ∀ (s : State) (m : Nat), legal s.cfg = true → s.halted = false → s.scBusy = false →
    let changed := (List.range s.cfg.nNoteKeys).filter fun i =>
      pressed s.cfg (assemble s.cfg m) i != pressed s.cfg s.scPrev i
    s.txq.length + changed.length ≤ s.cfg.txqCap →
      ∃ t, runAll (s.cycleLines m) s = some t ∧
        t.txq = s.txq ++ changed.map (fun i =>
          mkFrame s.cfg (if pressed s.cfg (assemble s.cfg m) i then kindPress else kindRelease) i) ∧
        t.ssInputs = assemble s.cfg m ∧ t.scPrev = assemble s.cfg m ∧
        t.ssStep = selectedStep s.cfg (assemble s.cfg m) ∧ t.scBusy = false

/-- The store pair is never torn: only SCAN_COMMIT writes `ss_inputs`, and with it the step size selected from the
same snapshot, because during a cycle `sc_step` is the one selected from `sc_fresh` (R72). -/
def Obligations.StorePairIsOfOneCycle : Prop :=
  ∀ (s t : State) (i : Instr), (s.scBusy = true → s.scStep = selectedStep s.cfg s.scFresh) →
    exec i s = .next t →
      (t.scBusy = true → t.scStep = selectedStep t.cfg t.scFresh) ∧
        (t.ssInputs ≠ s.ssInputs →
          i = .scanCommit ∧ t.ssInputs = s.scFresh ∧ t.ssStep = selectedStep t.cfg t.ssInputs)

/-- The selection and the edges go through `pressed` (R190): with the polarity, every sampled level and the previous
snapshot inverted, a capture selects the same step size and finds the same edges. -/
def Obligations.PolarityOnlyThroughPressed : Prop :=
  ∀ (s s' : State) (m m' : Nat) (t t' : State),
    s'.cfg = { s.cfg with activeLow := !s.cfg.activeLow } →
    s.halted = false → s'.halted = false → s.scBusy = false → s'.scBusy = false → legal s.cfg = true →
    (∀ i, i < s.cfg.snapW → m'.testBit i = !m.testBit i) →
    (∀ i, i < s.cfg.nNoteKeys → s'.scPrev.testBit i = !s.scPrev.testBit i) →
    exec (.scanCapture m) s = .next t → exec (.scanCapture m') s' = .next t' →
      t'.scStep = t.scStep ∧ t'.scEmit = t.scEmit

/-! ### Synthesizer (43_synth.md) -/

/-- SAMPLE_TICK (R230): the phase advances by the store's step size modulo `2^PHASE_W` (R231), the output is the
centered top bits of the new phase shifted right arithmetically by `MAX_VOLUME - rot` (the floor of the quotient), and
nothing else changes. -/
def Obligations.SampleTickEffect : Prop :=
  ∀ (s : State) (n : Knob), legal s.cfg = true → s.halted = false → s.knobs[s.cfg.volKnob]? = some n →
    ∃ out, exec .sampleTick s = .next { s with
        synPhase := (s.synPhase + s.ssStep) % 2 ^ s.cfg.phaseW, audioOut := out } ∧
      let raw := ((s.synPhase + s.ssStep) % 2 ^ s.cfg.phaseW) >>> (s.cfg.phaseW - s.cfg.sampleBits)
      let cen := (raw : Int) - 2 ^ (s.cfg.sampleBits - 1)
      (2 : Int) ^ (s.cfg.maxVolume - n.rot) * out ≤ cen ∧
        cen < (2 : Int) ^ (s.cfg.maxVolume - n.rot) * (out + 1)

/-- An inference the spec marks as its own (R233, R237 L2). The sample SAMPLE_TICK writes is in the range of its
register, and its port code in `[0, 2^SAMPLE_BITS - 1]`, whatever the state. -/
def Obligations.SampleStaysInRange : Prop :=
  ∀ s t : State, legal s.cfg = true → s.halted = false → exec .sampleTick s = .next t →
    -(2 : Int) ^ (s.cfg.sampleBits - 1) ≤ t.audioOut ∧ t.audioOut ≤ (2 : Int) ^ (s.cfg.sampleBits - 1) - 1 ∧
      0 ≤ t.dacCode ∧ t.dacCode ≤ (2 : Int) ^ s.cfg.sampleBits - 1

/-- An inference the spec marks as its own (R237 L1). After n ticks with a constant step size the phase is `(p0 + n*s)
mod 2^PHASE_W`. -/
def Obligations.PhaseAfterTicks : Prop :=
  ∀ (s : State) (n : Nat), legal s.cfg = true → s.halted = false → s.synPhase < 2 ^ s.cfg.phaseW →
    ∃ t, runAll (List.replicate n .sampleTick) s = some t ∧
      t.synPhase = (s.synPhase + n * s.ssStep) % 2 ^ s.cfg.phaseW ∧ t.ssStep = s.ssStep

/-- An inference the spec marks as its own (R237 L3). For the same phase the magnitude of the sample does not increase
as the rotation decreases. -/
def Obligations.LowerRotationIsNotLouder : Prop :=
  ∀ s s' t t' : State, legal s.cfg = true → s'.cfg = s.cfg → s.halted = false → s'.halted = false →
    s'.synPhase = s.synPhase → s'.ssStep = s.ssStep →
    s.getRotation s.cfg.volKnob ≤ s'.getRotation s.cfg.volKnob →
    exec .sampleTick s = .next t → exec .sampleTick s' = .next t' →
      t.audioOut.natAbs ≤ t'.audioOut.natAbs

/-- An inference the spec marks as its own (R237 L4). SAMPLE_TICK writes no state other than `syn_phase` and
`audio_out`, whatever the state: with `halted` set it writes neither. -/
def Obligations.SampleWritesOnlyPhaseAndOutput : Prop :=
  ∀ s : State, legal s.cfg = true →
    (∃ t, exec .sampleTick s = .next t ∧ t = { s with synPhase := t.synPhase, audioOut := t.audioOut }) ∧
      (s.halted = true → exec .sampleTick s = .next s)

/-- An inference the spec marks as its own (R235, R421). A sample between a capture and its commit sees the new
rotation and the old step size. -/
def Obligations.SampleInsideCycle : Prop :=
  ∀ (s u t : State) (m : Nat), legal s.cfg = true → s.halted = false → s.scBusy = false →
    exec (.scanCapture m) s = .next u → exec .sampleTick u = .next t →
      t.synPhase = (s.synPhase + s.ssStep) % 2 ^ s.cfg.phaseW ∧
        t.audioOut = sampleOf s.cfg t.synPhase (u.getRotation s.cfg.volKnob)

/-! ### Transmit path (44_bus_tx.md) -/

/-- TX_ENQ (R271) as a row of its own (log entry 8) is the SCAN_EMIT step that pushes its frame: with a cycle under
way, a frame pending and `txq` not full, the frame of the lowest pending key goes to the tail and that key's bit is
cleared, in one step with SCAN_EMIT. For any other frame, outside a cycle, with nothing pending or on a full `txq`, it
waits. -/
def Obligations.TxEnqEffect : Prop :=
  ∀ (s : State) (f : Frame), legal s.cfg = true → s.halted = false →
    (∀ i e, s.scBusy = true → s.txq.length ≠ s.cfg.txqCap → s.scEmit.testBit i = true →
        (∀ j, j < i → s.scEmit.testBit j = false) → (∀ j, e.testBit j = (s.scEmit.testBit j && decide (j ≠ i))) →
        (f = keyFrame s.cfg s.scFresh i →
          exec (.txEnq f) s = .next { s with scEmit := e, txq := s.txq ++ [f] } ∧
            exec .scanEmit s = exec (.txEnq f) s) ∧
          (f ≠ keyFrame s.cfg s.scFresh i → exec (.txEnq f) s = .next s)) ∧
      (s.scBusy = false ∨ s.scEmit = 0 ∨ s.txq.length = s.cfg.txqCap → exec (.txEnq f) s = .next s)

/-- TX_DEQ moves the head of `txq` into the free holding register; with the register full or `txq` empty it holds
(R274). -/
def Obligations.TxDeqEffect : Prop :=
  ∀ s : State, legal s.cfg = true → s.halted = false →
    (∀ f q, s.txq = f :: q → s.txHoldValid = false →
        exec .txDeq s = .next { s with txq := q, txHoldFrame := f, txHoldValid := true }) ∧
      (s.txq = [] ∨ s.txHoldValid = true → exec .txDeq s = .next s)

/-- TX_ISSUE takes a mailbox, emits the held frame and frees the register; with no mailbox or no frame it holds
(R276). The frame register's value while it is not valid is unspecified (R40), so any value `g` is allowed. That the
emitted frame is entered in `ownPending` with LOOPBACK, and not without, is the model's account of R313 (log entry
10). -/
def Obligations.TxIssueEffect : Prop :=
  ∀ s : State, legal s.cfg = true → s.halted = false →
    (s.txHoldValid = true → 0 < s.mboxAvail →
        ∃ g, exec .txIssue s = .next { s with
          mboxAvail := s.mboxAvail - 1, busTx := s.busTx ++ [s.txHoldFrame], txHoldValid := false,
          txHoldFrame := g
          ownPending := if s.cfg.loopback then s.ownPending ++ [s.txHoldFrame] else s.ownPending }) ∧
      (s.txHoldValid = false ∨ s.mboxAvail = 0 → exec .txIssue s = .next s)

/-- TX_DONE returns one mailbox, saturating at MBOX_N, and changes nothing else (R278). -/
def Obligations.TxDoneEffect : Prop :=
  ∀ s : State, legal s.cfg = true → s.halted = false →
    exec .txDone s = .next { s with mboxAvail := min (s.mboxAvail + 1) s.cfg.mboxN }

/-- An inference the spec marks as its own (R280 L1). The transmit path keeps order, drops nothing and adds nothing:
over any run, what was emitted, is held and is queued is what was there before followed by what was pushed; so the
emitted frames are a leading part of the pushed ones. -/
def Obligations.TransmitKeepsOrder : Prop :=
  ∀ (is : List Instr) (s t : State), runAll is s = some t →
    t.txStream = s.txStream ++ collect pushedAt is s ∧
      t.busTx <+: s.txStream ++ collect pushedAt is s

/-- An inference the spec marks as its own (R280 L2). While the environment keeps its TX_DONE duty, `MBOX_N -
mbox_avail` is the number of frames issued and not yet completed, and never exceeds MBOX_N. -/
def Obligations.InFlightIsOutstanding : Prop :=
  ∀ (is : List Instr) (s t : State) (n : Nat), legal s.cfg = true → s.mboxAvail ≤ s.cfg.mboxN →
    outstanding is s s.inFlight = some n → runAll is s = some t → t.inFlight = n ∧ n ≤ t.cfg.mboxN

/-- An inference the spec marks as its own (R280 L4). In a weakly fair run (R431) with the TX_DONE duty every frame in
the transmit path is eventually emitted, in order. -/
def Obligations.QueuedFramesAreEmitted : Prop :=
  ∀ (σ : Nat → State) (ev : Nat → Instr), FairRun σ ev → legal (σ 0).cfg = true → (σ 0).halted = false →
    ∀ n, ∃ m, n ≤ m ∧ (σ n).txStream <+: (σ m).busTx

/-! ### Receive path (45_bus_rx.md) -/

/-- RX_FRAME, of a frame that may arrive (another node's at any time, an own one with LOOPBACK while its emission is
still to arrive, R313): another identifier changes nothing; an accepted frame is pushed as received, or, on a full
`rxq`, dropped and counted, saturating, with RxOverrun (R310, R312). An own frame that may not arrive waits (log entry
10). A payload not of `FRAME_BYTES` bytes (R310's 8, log entry 14) is refused; that this comes first, in any state and
before the filter, is the model's choice (log entry 6). -/
def Obligations.RxFrameEffect : Prop :=
  ∀ (s : State) (o : Origin) (id : Nat) (data : List Byte),
    (data.length ≠ s.cfg.frameBytes →
        exec (.rxFrame ⟨o, id⟩ data) s = .next { s with refused := true, raised := s.raised ++ [.refused] }) ∧
      (data.length = s.cfg.frameBytes → legal s.cfg = true → s.halted = false →
        (o = .own → (s.cfg.loopback = false ∨ ⟨id, data⟩ ∉ s.ownPending) →
            exec (.rxFrame ⟨o, id⟩ data) s = .next s) ∧
          ∀ p, (o = .peer ∧ p = s.ownPending) ∨
              (o = .own ∧ s.cfg.loopback = true ∧ ⟨id, data⟩ ∈ s.ownPending ∧ p = s.ownPending.erase ⟨id, data⟩) →
            (id ≠ s.cfg.busId → exec (.rxFrame ⟨o, id⟩ data) s = .next { s with ownPending := p }) ∧
              (id = s.cfg.busId → s.rxq.length ≠ s.cfg.rxqCap →
                exec (.rxFrame ⟨o, id⟩ data) s =
                  .next { s with ownPending := p, rxq := s.rxq ++ [⟨id, data⟩] }) ∧
              (id = s.cfg.busId → s.rxq.length = s.cfg.rxqCap →
                ∃ d, exec (.rxFrame ⟨o, id⟩ data) s =
                    .next { s with ownPending := p, rxDrop := d, raised := s.raised ++ [.rxOverrun] } ∧
                  d.toNat = min (s.rxDrop.toNat + 1) (2 ^ 32 - 1)))

/-- Own frames (R313), as the model keeps account of them (log entry 10). With LOOPBACK false none arrives, over any
run; with LOOPBACK true each emission is delivered at most once: over any run, what arrived and what is still to
arrive is, in some order, what was to arrive before and what was emitted. -/
def Obligations.OwnFramesArriveOnce : Prop :=
  ∀ (is : List Instr) (s t : State), runAll is s = some t →
    (s.cfg.loopback = false → collect ownArrivedAt is s = [] ∧ t.ownPending = s.ownPending) ∧
      (s.cfg.loopback = true →
        (collect ownArrivedAt is s ++ t.ownPending).Perm (s.ownPending ++ collect emittedAt is s))

/-- RX_DEQ (R314) as an operation of its own (log entry 8) hands the head of `rxq` to the consumer; on an empty one it
holds. -/
def Obligations.RxDeqEffect : Prop :=
  ∀ s : State, legal s.cfg = true → s.halted = false →
    (∀ f q, s.rxq = f :: q → exec .rxDeq s = .next { s with rxq := q, rxOut := s.rxOut ++ [f] }) ∧
      (s.rxq = [] → exec .rxDeq s = .next s)

/-- An inference the spec marks as its own (R316 L1). The receive path keeps order: over any run, what was handed out
and is queued is what was there before followed by the frames accepted, in arrival order. -/
def Obligations.ReceiveKeepsOrder : Prop :=
  ∀ (is : List Instr) (s t : State), runAll is s = some t →
    t.rxStream = s.rxStream ++ collect acceptedAt is s

/-- An inference the spec marks as its own (R316 L2). While `rx_drop` is not saturated, every frame that passes the
filter is enqueued or counted as dropped. -/
def Obligations.ReceiveAccountsEveryFrame : Prop :=
  ∀ (is : List Instr) (s t : State), runAll is s = some t → t.rxDrop.toNat < 2 ^ 32 - 1 →
    (collect arrivedAt is s).length + s.rxDrop.toNat = (collect acceptedAt is s).length + t.rxDrop.toNat

/-! ### Environment (47_environment.md) -/

/-- MD_STEP on the head of `rxq` (R341), a frame of payload bytes kind, octave, note and whatever follows: a Release
sets the step size to 0, a Press with a note up to 11 to the table's entry, anything else leaves it and raises
DecodeIgnored; the frame is dequeued and cached in every case. On an empty `rxq` it holds. -/
def Obligations.MdStepEffect : Prop :=
  ∀ s : State, legal s.cfg = true → s.halted = false →
    (∀ id kind octave note r q, s.rxq = ⟨id, kind :: octave :: note :: r⟩ :: q → ∃ t, exec .mdStep s = .next t ∧
        t = { s with rxq := q, rxOut := s.rxOut ++ [⟨id, kind :: octave :: note :: r⟩],
                     mdCache := some ⟨id, kind :: octave :: note :: r⟩, ssStep := t.ssStep, raised := t.raised } ∧
        (kind = 0x52#8 → t.ssStep = 0 ∧ t.raised = s.raised) ∧
        (kind = 0x50#8 → note.toNat ≤ 11 →
          s.cfg.stepTable[note.toNat]? = some t.ssStep ∧ t.raised = s.raised) ∧
        (kind = 0x50#8 → 11 < note.toNat → t.ssStep = s.ssStep ∧ t.raised = s.raised ++ [.decodeIgnored]) ∧
        (kind ≠ 0x50#8 → kind ≠ 0x52#8 → t.ssStep = s.ssStep ∧ t.raised = s.raised ++ [.decodeIgnored])) ∧
      (s.rxq = [] → exec .mdStep s = .next s)

/-- The frame kinds as rows of their own (log entry 8) are the MD_STEP that decodes a frame of these payload bytes
(R341): where it is the head of `rxq` they complete as that step, with the step size by kind and note; on any other
head and on an empty `rxq` they wait. -/
def Obligations.FrameKindEffect : Prop :=
  ∀ (s : State) (o n r3 r4 r5 r6 : Byte) (l : List Byte), legal s.cfg = true → s.halted = false →
    (∀ id q, s.rxq = ⟨id, 0x50#8 :: o :: n :: r3 :: r4 :: r5 :: r6 :: l⟩ :: q →
      let f : Frame := ⟨id, 0x50#8 :: o :: n :: r3 :: r4 :: r5 :: r6 :: l⟩
      exec (.framePress o n r3 r4 r5 r6 l) s = exec .mdStep s ∧
        (n.toNat ≤ 11 → ∃ v, s.cfg.stepTable[n.toNat]? = some v ∧
          exec (.framePress o n r3 r4 r5 r6 l) s =
            .next { s with rxq := q, rxOut := s.rxOut ++ [f], mdCache := some f, ssStep := v }) ∧
        (11 < n.toNat → exec (.framePress o n r3 r4 r5 r6 l) s =
            .next { s with rxq := q, rxOut := s.rxOut ++ [f], mdCache := some f,
                           raised := s.raised ++ [.decodeIgnored] })) ∧
      (∀ id q, s.rxq = ⟨id, 0x52#8 :: o :: n :: r3 :: r4 :: r5 :: r6 :: l⟩ :: q →
        let f : Frame := ⟨id, 0x52#8 :: o :: n :: r3 :: r4 :: r5 :: r6 :: l⟩
        exec (.frameRelease o n r3 r4 r5 r6 l) s = exec .mdStep s ∧
          exec (.frameRelease o n r3 r4 r5 r6 l) s =
            .next { s with rxq := q, rxOut := s.rxOut ++ [f], mdCache := some f, ssStep := 0 }) ∧
      ((∀ f, s.rxq.head? = some f → f.data ≠ 0x50#8 :: o :: n :: r3 :: r4 :: r5 :: r6 :: l) →
        exec (.framePress o n r3 r4 r5 r6 l) s = .next s) ∧
      ((∀ f, s.rxq.head? = some f → f.data ≠ 0x52#8 :: o :: n :: r3 :: r4 :: r5 :: r6 :: l) →
        exec (.frameRelease o n r3 r4 r5 r6 l) s = .next s)

/-- The octave and the reserved bytes of a received frame never matter to the step size (R106, R108): two frames that
agree on kind and note decode to the same one. -/
def Obligations.OctaveAndReservedIgnored : Prop :=
  ∀ (s t t' : State) (id id' : Nat) (kind octave octave' note : Byte) (r r' : List Byte) (q : List Frame),
    legal s.cfg = true → s.halted = false → s.rxq = ⟨id, kind :: octave :: note :: r⟩ :: q →
    exec .mdStep s = .next t →
    exec .mdStep { s with rxq := ⟨id', kind :: octave' :: note :: r'⟩ :: q } = .next t' →
      t'.ssStep = t.ssStep ∧ t'.raised = t.raised ∧ t'.rxq = t.rxq

/-- DISPLAY_READ reads the store pair in one atomic step and writes nothing in the block (R345): only the record of
what was read grows. -/
def Obligations.DisplayReadEffect : Prop :=
  ∀ s : State, legal s.cfg = true → s.halted = false →
    ∃ v : DisplayView, v.inputs = s.ssInputs ∧ v.step = s.ssStep ∧
      exec .displayRead s = .next { s with displayOut := s.displayOut ++ [v] }

/-- An inference the spec marks as its own (R423). A step size MD_STEP writes lasts only until the next commit, which
writes the cycle's own. -/
def Obligations.CommitOverwritesReceivedStep : Prop :=
  ∀ s : State, legal s.cfg = true → s.halted = false → s.scBusy = true → s.scEmit = 0 → s.rxq ≠ [] →
    ∃ t, runAll [.mdStep, .scanCommit] s = some t ∧ t.ssStep = s.scStep ∧ t.ssInputs = s.scFresh

/-! ### The whole block (10_state.md R54, 60_exceptions.md) -/

/-- The writer table of R54: whatever operation changes an element, its step is one of a writer listed for it, made in
the way listed. -/
def Obligations.WriterTable : Prop :=
  ∀ (i : Instr) (s t : State), exec i s = .next t →
    (t.knobs ≠ s.knobs → ∃ m, exec (.scanCapture m) s = .next t) ∧
      (¬ sameSc s t → (∃ m, exec (.scanCapture m) s = .next t) ∨ exec .scanEmit s = .next t ∨ i = .scanCommit) ∧
      (t.ssInputs ≠ s.ssInputs → i = .scanCommit) ∧
      (t.ssStep ≠ s.ssStep → i = .scanCommit ∨ exec .mdStep s = .next t) ∧
      (¬ sameSyn s t → i = .sampleTick) ∧
      (t.txq ≠ s.txq → (exec .scanEmit s = .next t ∧ ∃ f, t.txq = s.txq ++ [f]) ∨
        (i = .txDeq ∧ ∃ f, s.txq = f :: t.txq)) ∧
      (t.txHoldValid ≠ s.txHoldValid ∨ t.txHoldFrame ≠ s.txHoldFrame → i = .txDeq ∨ i = .txIssue) ∧
      (t.mboxAvail ≠ s.mboxAvail → (i = .txIssue ∧ t.mboxAvail + 1 = s.mboxAvail) ∨
        (i = .txDone ∧ t.mboxAvail = min (s.mboxAvail + 1) s.cfg.mboxN)) ∧
      (t.rxq ≠ s.rxq → ((∃ a data, i = .rxFrame a data) ∧ ∃ f, t.rxq = s.rxq ++ [f]) ∨
        (i.agent = some .messageDecoder ∧ ∃ f, s.rxq = f :: t.rxq)) ∧
      (t.rxDrop ≠ s.rxDrop → ∃ a data, i = .rxFrame a data) ∧
      t.halted = s.halted

/-- An inference the spec marks as its own (R379). The three interrupt bodies touch disjoint state, so one after the
other is the same in either order. -/
def Obligations.InterruptBodiesCommute : Prop :=
  ∀ (s : State) (o : Origin) (id : Nat) (data : List Byte),
    runAll [.sampleTick, .rxFrame ⟨o, id⟩ data] s = runAll [.rxFrame ⟨o, id⟩ data, .sampleTick] s ∧
      runAll [.sampleTick, .txDone] s = runAll [.txDone, .sampleTick] s ∧
      runAll [.txDone, .rxFrame ⟨o, id⟩ data] s = runAll [.rxFrame ⟨o, id⟩ data, .txDone] s

/-- Every interrupt-context step is total on its inputs (R371): SAMPLE_TICK in any state, TX_DONE at any counter,
RX_FRAME on any identifier and any `FRAME_BYTES` bytes (R371's 8, log entry 14) of another node's frame (log entry 10)
are enabled and complete, none is refused and none halts the block; and any of them, from any state, answers a next
state. -/
def Obligations.InterruptStepsAreTotal : Prop :=
  ∀ (s : State) (o : Origin) (id : Nat) (data : List Byte),
    (∀ i ∈ [Instr.sampleTick, .txDone, .rxFrame ⟨o, id⟩ data], ∃ t, exec i s = .next t) ∧
      (legal s.cfg = true → s.halted = false → data.length = s.cfg.frameBytes →
        ∀ i ∈ [Instr.sampleTick, .txDone, .rxFrame ⟨.peer, id⟩ data],
          enabled i s = true ∧
            ∃ t, exec i s = .next t ∧ t.refused = s.refused ∧ t.halted = false ∧
              .refused ∉ t.raised.drop s.raised.length)
end

