-- ==== Sys2Proof/Laws/Bits.lean ====
section
/-! SUPPORT. What the bit-level helpers compute: a vector's bits, a snapshot's bits, the edge mask, the selected
key, the lowest set bit, the clamp and the shift. -/

namespace Sys2Proof.Machine

theorem bitsOf_lt (n : Nat) (f : Nat → Bool) : bitsOf n f < 2 ^ n := by
  induction n with
  | zero => simp [bitsOf]
  | succ n ih =>
    simp only [bitsOf, Nat.pow_succ]
    split <;> omega

theorem testBit_bitsOf (n : Nat) (f : Nat → Bool) (i : Nat) :
    (bitsOf n f).testBit i = (decide (i < n) && f i) := by
  induction n with
  | zero => simp [bitsOf]
  | succ n ih =>
    have hlt := bitsOf_lt n f
    cases hf : f n
    · simp only [bitsOf, hf, Bool.false_eq_true, if_false, Nat.add_zero, ih]
      by_cases hi : i = n
      · subst hi; simp [hf]
      · congr 1; simp only [decide_eq_decide]; omega
    · simp only [bitsOf, hf, if_true]
      rw [Nat.add_comm]
      rcases Nat.lt_trichotomy i n with hi | hi | hi
      · rw [Nat.testBit_two_pow_add_gt hi, ih]
        congr 1; simp only [decide_eq_decide]; omega
      · subst hi
        rw [Nat.testBit_two_pow_add_eq, Nat.testBit_lt_two_pow hlt]
        simp [hf]
      · rw [Nat.testBit_lt_two_pow (x := 2 ^ n + bitsOf n f) (i := i)]
        · simp; omega
        · calc 2 ^ n + bitsOf n f < 2 ^ n + 2 ^ n := by omega
            _ = 2 ^ (n + 1) := by rw [Nat.pow_succ]; omega
            _ ≤ 2 ^ i := Nat.pow_le_pow_right (by omega) hi

theorem assemble_lt (c : Config) (m : Nat) : assemble c m < 2 ^ c.snapW := bitsOf_lt _ _

/-- The assembled snapshot holds the sampled levels, and the released level where nothing is sampled. -/
theorem testBit_assemble (c : Config) (m i : Nat) (hi : i < c.snapW) :
    (assemble c m).testBit i = if i < c.nRows * c.nCols then m.testBit i else releasedLevel c := by
  unfold assemble
  rw [testBit_bitsOf]
  simp only [hi, decide_true, Bool.true_and, matrixLevel]
  split
  · rw [Nat.mul_comm, Nat.div_add_mod]
  · rfl

theorem edgeMask_lt (c : Config) (f p : Nat) : edgeMask c f p < 2 ^ c.nNoteKeys := bitsOf_lt _ _

theorem testBit_edgeMask (c : Config) (f p i : Nat) :
    (edgeMask c f p).testBit i = (decide (i < c.nNoteKeys) && (pressed c f i != pressed c p i)) :=
  testBit_bitsOf _ _ _

theorem testBit_allReleased (c : Config) (i : Nat) :
    (allReleased c).testBit i = (decide (i < c.snapW) && releasedLevel c) := testBit_bitsOf _ _ _

theorem allReleased_lt (c : Config) : allReleased c < 2 ^ c.snapW := bitsOf_lt _ _

/-- The selected key is none where no note key is pressed, and else the highest pressed one (R183). -/
theorem selectedKey_cases (c : Config) (f : Nat) :
    (selectedKey c f = none ∧ ∀ i < c.nNoteKeys, pressed c f i = false) ∨
    ∃ k, selectedKey c f = some k ∧ k < c.nNoteKeys ∧ pressed c f k = true ∧
      ∀ i, k < i → i < c.nNoteKeys → pressed c f i = false := by
  unfold selectedKey
  induction c.nNoteKeys with
  | zero => left; simp
  | succ n ih =>
    rw [List.range_succ, List.foldl_append]
    simp only [List.foldl_cons, List.foldl_nil]
    by_cases hp : pressed c f n = true
    · right
      refine ⟨n, by simp [hp], by omega, hp, ?_⟩
      intro i h1 h2; omega
    · have hp' : pressed c f n = false := by simpa using hp
      simp only [hp', Bool.false_eq_true, if_false]
      rcases ih with ⟨h1, h2⟩ | ⟨k, h1, h2, h3, h4⟩
      · left
        refine ⟨h1, fun i hi => ?_⟩
        rcases Nat.lt_succ_iff_lt_or_eq.mp hi with h | h
        · exact h2 i h
        · exact h ▸ hp'
      · right
        refine ⟨k, h1, by omega, h3, fun i hk hi => ?_⟩
        rcases Nat.lt_succ_iff_lt_or_eq.mp hi with h | h
        · exact h4 i hk h
        · exact h ▸ hp'

/-- A number that is not 0 has a lowest set bit, which `lowestBit` finds. -/
theorem lowestBit_spec {v : Nat} (hv : v ≠ 0) :
    ∃ i, lowestBit v = some i ∧ v.testBit i = true ∧ ∀ j < i, v.testBit j = false := by
  unfold lowestBit
  have hex : ∃ i, v.testBit i = true := Nat.exists_testBit_of_ne_zero hv
  classical
  obtain ⟨hi, hmin⟩ : v.testBit (Nat.find hex) = true ∧ ∀ j < Nat.find hex, v.testBit j = false :=
    ⟨Nat.find_spec hex, fun j hj => by simpa using Nat.find_min hex hj⟩
  refine ⟨Nat.find hex, ?_, hi, hmin⟩
  have hle : Nat.find hex < v.log2 + 1 := by
    by_contra hcon
    have hlt : v < 2 ^ Nat.find hex :=
      lt_of_lt_of_le Nat.lt_log2_self (Nat.pow_le_pow_right (by omega) (by omega))
    rw [Nat.testBit_lt_two_pow hlt] at hi
    exact absurd hi (by simp)
  rw [List.find?_range_eq_some]
  refine ⟨hi, List.mem_range.mpr hle, fun j hj => by simp [hmin j hj]⟩

theorem lowestBit_zero : lowestBit 0 = none := by decide

/-- The clamp lands in its range. -/
theorem clamp_mem {v lo hi : Int} (h : lo ≤ hi) : lo ≤ clamp v lo hi ∧ clamp v lo hi ≤ hi := by
  unfold clamp; omega

/-- The shift is the floor of the quotient (R10). -/
theorem asr_floor (v : Int) (s : Nat) : (2 : Int) ^ s * asr v s ≤ v ∧ v < (2 : Int) ^ s * (asr v s + 1) := by
  have hp : (0 : Int) < 2 ^ s := by positivity
  unfold asr
  constructor
  · exact Int.mul_ediv_self_le (by omega)
  · have h := Int.lt_mul_ediv_self_add hp (x := v)
    rw [Int.mul_add, Int.mul_one]; exact h

/-- The shifted value lies between the value and 0 (R233). -/
theorem asr_between (v : Int) (s : Nat) : min v 0 ≤ asr v s ∧ asr v s ≤ max v 0 := by
  have hp : (0 : Int) < 2 ^ s := by positivity
  obtain ⟨h1, h2⟩ := asr_floor v s
  constructor
  · by_contra hc
    nlinarith [min_le_left v 0, min_le_right v 0]
  · by_contra hc
    nlinarith [le_max_left v 0, le_max_right v 0]

end Sys2Proof.Machine
end

