-- ==== Sys2Proof/Laws/Bytes.lean ====
section
/-! SUPPORT. Reading back what an operand was written as. -/

namespace Sys2Proof

theorem length_leBytes (n v : Nat) : (leBytes n v).length = n := by
  induction n generalizing v with
  | zero => rfl
  | succ n ih => simp [leBytes, ih]

theorem leNat_leBytes (n v : Nat) (h : v < 256 ^ n) : leNat (leBytes n v) = v := by
  induction n generalizing v with
  | zero => simp only [Nat.pow_zero] at h; simp [leBytes, leNat]; omega
  | succ n ih =>
    have hq : v / 256 < 256 ^ n := by
      rw [Nat.pow_succ] at h
      exact Nat.div_lt_of_lt_mul (by omega)
    simp only [leBytes, leNat, ih _ hq, BitVec.toNat_ofNat]
    omega

theorem leBytes_leNat (bs : List Byte) : leBytes bs.length (leNat bs) = bs := by
  induction bs with
  | nil => rfl
  | cons b bs ih =>
    have hb := b.isLt
    simp only [leNat, List.length_cons, leBytes]
    have h1 : (b.toNat + 256 * leNat bs) / 256 = leNat bs := by omega
    rw [h1, ih]
    congr 1
    apply BitVec.eq_of_toNat_eq
    simp only [BitVec.toNat_ofNat]
    omega

theorem two_pow_le_opBytes (w : Nat) : 2 ^ w ≤ 256 ^ opBytes w := by
  have h : (256 : Nat) = 2 ^ 8 := by norm_num
  rw [h, ← Nat.pow_mul]
  exact Nat.pow_le_pow_right (by omega) (by unfold opBytes; omega)

/-- Splitting takes exactly the first `n` bytes. -/
theorem splitBytes_append (ds r : List Byte) : splitBytes ds.length (ds ++ r) = some (ds, r) := by
  induction ds with
  | nil => rfl
  | cons d ds ih => simp [splitBytes, ih]

/-- What splitting answers is the bytes themselves, cut after `n`. -/
theorem splitBytes_eq_some {n : Nat} {bs : List Byte} {p : List Byte × List Byte} (h : splitBytes n bs = some p) :
    bs = p.1 ++ p.2 ∧ p.1.length = n := by
  induction n generalizing bs p with
  | zero => cases h; simp
  | succ n ih =>
    cases bs with
    | nil => cases h
    | cons b bs =>
      simp only [splitBytes, Option.map_eq_some_iff] at h
      obtain ⟨q, hq, rfl⟩ := h
      obtain ⟨h1, h2⟩ := ih hq
      exact ⟨by simp [h1], by simp [h2]⟩

/-- An operand in its width is read back, with the bytes after it left over. -/
theorem takeBits_putBits (w v : Nat) (rest : List Byte) (go : Nat → List Byte → Decoded) (h : v < 2 ^ w) :
    takeBits w (putBits w v ++ rest) go = go v rest := by
  have hl : (putBits w v).length = opBytes w := length_leBytes _ _
  have hn : leNat (putBits w v) = v := leNat_leBytes _ _ (lt_of_lt_of_le h (two_pow_le_opBytes w))
  have hs : splitBytes (opBytes w) (putBits w v ++ rest) = some (putBits w v, rest) := hl ▸ splitBytes_append _ _
  simp only [takeBits, hs, hn, if_pos h]

theorem lt_two_pow_knobW (c : Config) (k : Nat) (h : k < c.nKnobs) : k < 2 ^ knobW c :=
  lt_trans h Nat.lt_log2_self

/-- A knob number is read back. -/
theorem takeKnob_putBits (c : Config) (k : Nat) (rest : List Byte) (go : Nat → List Byte → Decoded)
    (h : k < c.nKnobs) : takeKnob c (putBits (knobW c) k ++ rest) go = go k rest := by
  unfold takeKnob
  rw [takeBits_putBits _ _ _ _ (lt_two_pow_knobW c k h), if_pos h]

/-- The operands of a decoder update are read back. -/
theorem takeUpdate_put (c : Config) (u : KnobUpdate) (rest : List Byte) (go : KnobUpdate → List Byte → Decoded)
    (h : u.wf c = true) : takeUpdate c (putUpdate c u ++ rest) go = go u rest := by
  simp only [KnobUpdate.wf, Bool.and_eq_true, decide_eq_true_eq] at h
  unfold takeUpdate putUpdate
  rw [List.append_assoc, takeKnob_putBits _ _ _ _ h.1, takeBits_putBits _ _ _ _ h.2]

theorem frameBytes_lt_lenW (c : Config) : c.frameBytes < 2 ^ lenW c :=
  lt_of_lt_of_le Nat.lt_log2_self (Nat.pow_le_pow_right (by omega) (by unfold lenW; omega))

/-- A length operand is a number of `lenW` bits, and the length it announces is again one. -/
theorem lengthCode_lt (c : Config) {n : Nat} (h : n < 2 ^ lenW c) : lengthCode c n < 2 ^ lenW c := by
  have := frameBytes_lt_lenW c
  unfold lengthCode; split <;> omega

/-- The length operand of a payload announces its length. -/
theorem lengthCode_lengthCode (c : Config) {n : Nat} (h : n < 2 ^ lenW c) : lengthCode c (lengthCode c n) = n := by
  have := frameBytes_lt_lenW c
  unfold lengthCode; split <;> split <;> omega

/-- Payload bytes are read back. -/
theorem takeBytes_append (data rest : List Byte) (go : List Byte → List Byte → Decoded) :
    takeBytes data.length (data ++ rest) go = go data rest := by
  simp only [takeBytes, splitBytes_append]

/-- The operands of an RX_FRAME are read back. -/
theorem takeArrival_put (c : Config) (o : Origin) (id : Nat) (data rest : List Byte) (hid : id < 2 ^ c.busIdW)
    (hl : data.length < 2 ^ lenW c) :
    takeArrival c o (putBits c.busIdW id ++ (putBits (lenW c) (lengthCode c data.length) ++ (data ++ rest))) =
      .instr (.rxFrame ⟨o, id⟩ data) rest := by
  unfold takeArrival
  rw [takeBits_putBits _ _ _ _ hid, takeBits_putBits _ _ _ _ (lengthCode_lt c hl), lengthCode_lengthCode c hl,
    takeBytes_append]

end Sys2Proof
end

