-- ==== Sys2Proof/Laws/State.lean ====
section
/-! SUPPORT. What each named update leaves in each element: the written elements hold what was written, every
other element is as before. -/

namespace Sys2Proof.Machine

variable (s : State)

@[simp] theorem State.raise_cfg (e : Condition) : (s.raise e).cfg = s.cfg := rfl
@[simp] theorem State.raise_knobs (e : Condition) : (s.raise e).knobs = s.knobs := rfl
@[simp] theorem State.raise_scPrev (e : Condition) : (s.raise e).scPrev = s.scPrev := rfl
@[simp] theorem State.raise_scBusy (e : Condition) : (s.raise e).scBusy = s.scBusy := rfl
@[simp] theorem State.raise_scFresh (e : Condition) : (s.raise e).scFresh = s.scFresh := rfl
@[simp] theorem State.raise_scStep (e : Condition) : (s.raise e).scStep = s.scStep := rfl
@[simp] theorem State.raise_scEmit (e : Condition) : (s.raise e).scEmit = s.scEmit := rfl
@[simp] theorem State.raise_ssInputs (e : Condition) : (s.raise e).ssInputs = s.ssInputs := rfl
@[simp] theorem State.raise_ssStep (e : Condition) : (s.raise e).ssStep = s.ssStep := rfl
@[simp] theorem State.raise_synPhase (e : Condition) : (s.raise e).synPhase = s.synPhase := rfl
@[simp] theorem State.raise_audioOut (e : Condition) : (s.raise e).audioOut = s.audioOut := rfl
@[simp] theorem State.raise_txq (e : Condition) : (s.raise e).txq = s.txq := rfl
@[simp] theorem State.raise_txHoldValid (e : Condition) : (s.raise e).txHoldValid = s.txHoldValid := rfl
@[simp] theorem State.raise_txHoldFrame (e : Condition) : (s.raise e).txHoldFrame = s.txHoldFrame := rfl
@[simp] theorem State.raise_mboxAvail (e : Condition) : (s.raise e).mboxAvail = s.mboxAvail := rfl
@[simp] theorem State.raise_rxq (e : Condition) : (s.raise e).rxq = s.rxq := rfl
@[simp] theorem State.raise_rxDrop (e : Condition) : (s.raise e).rxDrop = s.rxDrop := rfl
@[simp] theorem State.raise_halted (e : Condition) : (s.raise e).halted = s.halted := rfl
@[simp] theorem State.raise_refused (e : Condition) : (s.raise e).refused = s.refused := rfl
@[simp] theorem State.raise_mdCache (e : Condition) : (s.raise e).mdCache = s.mdCache := rfl
@[simp] theorem State.raise_trace (e : Condition) : (s.raise e).trace = s.trace := rfl
@[simp] theorem State.raise_busTx (e : Condition) : (s.raise e).busTx = s.busTx := rfl
@[simp] theorem State.raise_ownPending (e : Condition) : (s.raise e).ownPending = s.ownPending := rfl
@[simp] theorem State.raise_rxOut (e : Condition) : (s.raise e).rxOut = s.rxOut := rfl
@[simp] theorem State.raise_displayOut (e : Condition) : (s.raise e).displayOut = s.displayOut := rfl
@[simp] theorem State.raise_raised (e : Condition) : (s.raise e).raised = s.raised ++ [e] := rfl

@[simp] theorem State.markRefused_cfg : (s.markRefused).cfg = s.cfg := rfl
@[simp] theorem State.markRefused_knobs : (s.markRefused).knobs = s.knobs := rfl
@[simp] theorem State.markRefused_scPrev : (s.markRefused).scPrev = s.scPrev := rfl
@[simp] theorem State.markRefused_scBusy : (s.markRefused).scBusy = s.scBusy := rfl
@[simp] theorem State.markRefused_scFresh : (s.markRefused).scFresh = s.scFresh := rfl
@[simp] theorem State.markRefused_scStep : (s.markRefused).scStep = s.scStep := rfl
@[simp] theorem State.markRefused_scEmit : (s.markRefused).scEmit = s.scEmit := rfl
@[simp] theorem State.markRefused_ssInputs : (s.markRefused).ssInputs = s.ssInputs := rfl
@[simp] theorem State.markRefused_ssStep : (s.markRefused).ssStep = s.ssStep := rfl
@[simp] theorem State.markRefused_synPhase : (s.markRefused).synPhase = s.synPhase := rfl
@[simp] theorem State.markRefused_audioOut : (s.markRefused).audioOut = s.audioOut := rfl
@[simp] theorem State.markRefused_txq : (s.markRefused).txq = s.txq := rfl
@[simp] theorem State.markRefused_txHoldValid : (s.markRefused).txHoldValid = s.txHoldValid := rfl
@[simp] theorem State.markRefused_txHoldFrame : (s.markRefused).txHoldFrame = s.txHoldFrame := rfl
@[simp] theorem State.markRefused_mboxAvail : (s.markRefused).mboxAvail = s.mboxAvail := rfl
@[simp] theorem State.markRefused_rxq : (s.markRefused).rxq = s.rxq := rfl
@[simp] theorem State.markRefused_rxDrop : (s.markRefused).rxDrop = s.rxDrop := rfl
@[simp] theorem State.markRefused_halted : (s.markRefused).halted = s.halted := rfl
@[simp] theorem State.markRefused_refused : (s.markRefused).refused = true := rfl
@[simp] theorem State.markRefused_mdCache : (s.markRefused).mdCache = s.mdCache := rfl
@[simp] theorem State.markRefused_trace : (s.markRefused).trace = s.trace := rfl
@[simp] theorem State.markRefused_busTx : (s.markRefused).busTx = s.busTx := rfl
@[simp] theorem State.markRefused_ownPending : (s.markRefused).ownPending = s.ownPending := rfl
@[simp] theorem State.markRefused_rxOut : (s.markRefused).rxOut = s.rxOut := rfl
@[simp] theorem State.markRefused_displayOut : (s.markRefused).displayOut = s.displayOut := rfl
@[simp] theorem State.markRefused_raised : (s.markRefused).raised = s.raised ++ [.refused] := rfl

@[simp] theorem State.setKnob_cfg (k : Nat) (n : Knob) : (s.setKnob k n).cfg = s.cfg := rfl
@[simp] theorem State.setKnob_knobs (k : Nat) (n : Knob) : (s.setKnob k n).knobs = s.knobs.set k n := rfl
@[simp] theorem State.setKnob_scPrev (k : Nat) (n : Knob) : (s.setKnob k n).scPrev = s.scPrev := rfl
@[simp] theorem State.setKnob_scBusy (k : Nat) (n : Knob) : (s.setKnob k n).scBusy = s.scBusy := rfl
@[simp] theorem State.setKnob_scFresh (k : Nat) (n : Knob) : (s.setKnob k n).scFresh = s.scFresh := rfl
@[simp] theorem State.setKnob_scStep (k : Nat) (n : Knob) : (s.setKnob k n).scStep = s.scStep := rfl
@[simp] theorem State.setKnob_scEmit (k : Nat) (n : Knob) : (s.setKnob k n).scEmit = s.scEmit := rfl
@[simp] theorem State.setKnob_ssInputs (k : Nat) (n : Knob) : (s.setKnob k n).ssInputs = s.ssInputs := rfl
@[simp] theorem State.setKnob_ssStep (k : Nat) (n : Knob) : (s.setKnob k n).ssStep = s.ssStep := rfl
@[simp] theorem State.setKnob_synPhase (k : Nat) (n : Knob) : (s.setKnob k n).synPhase = s.synPhase := rfl
@[simp] theorem State.setKnob_audioOut (k : Nat) (n : Knob) : (s.setKnob k n).audioOut = s.audioOut := rfl
@[simp] theorem State.setKnob_txq (k : Nat) (n : Knob) : (s.setKnob k n).txq = s.txq := rfl
@[simp] theorem State.setKnob_txHoldValid (k : Nat) (n : Knob) : (s.setKnob k n).txHoldValid = s.txHoldValid := rfl
@[simp] theorem State.setKnob_txHoldFrame (k : Nat) (n : Knob) : (s.setKnob k n).txHoldFrame = s.txHoldFrame := rfl
@[simp] theorem State.setKnob_mboxAvail (k : Nat) (n : Knob) : (s.setKnob k n).mboxAvail = s.mboxAvail := rfl
@[simp] theorem State.setKnob_rxq (k : Nat) (n : Knob) : (s.setKnob k n).rxq = s.rxq := rfl
@[simp] theorem State.setKnob_rxDrop (k : Nat) (n : Knob) : (s.setKnob k n).rxDrop = s.rxDrop := rfl
@[simp] theorem State.setKnob_halted (k : Nat) (n : Knob) : (s.setKnob k n).halted = s.halted := rfl
@[simp] theorem State.setKnob_refused (k : Nat) (n : Knob) : (s.setKnob k n).refused = s.refused := rfl
@[simp] theorem State.setKnob_mdCache (k : Nat) (n : Knob) : (s.setKnob k n).mdCache = s.mdCache := rfl
@[simp] theorem State.setKnob_trace (k : Nat) (n : Knob) : (s.setKnob k n).trace = s.trace := rfl
@[simp] theorem State.setKnob_busTx (k : Nat) (n : Knob) : (s.setKnob k n).busTx = s.busTx := rfl
@[simp] theorem State.setKnob_ownPending (k : Nat) (n : Knob) : (s.setKnob k n).ownPending = s.ownPending := rfl
@[simp] theorem State.setKnob_rxOut (k : Nat) (n : Knob) : (s.setKnob k n).rxOut = s.rxOut := rfl
@[simp] theorem State.setKnob_displayOut (k : Nat) (n : Knob) : (s.setKnob k n).displayOut = s.displayOut := rfl
@[simp] theorem State.setKnob_raised (k : Nat) (n : Knob) : (s.setKnob k n).raised = s.raised := rfl

@[simp] theorem State.beginCycle_cfg (f : Nat) (v : Nat) (e : Nat) : (s.beginCycle f v e).cfg = s.cfg := rfl
@[simp] theorem State.beginCycle_knobs (f : Nat) (v : Nat) (e : Nat) : (s.beginCycle f v e).knobs = s.knobs := rfl
@[simp] theorem State.beginCycle_scPrev (f : Nat) (v : Nat) (e : Nat) : (s.beginCycle f v e).scPrev = s.scPrev := rfl
@[simp] theorem State.beginCycle_scBusy (f : Nat) (v : Nat) (e : Nat) : (s.beginCycle f v e).scBusy = true := rfl
@[simp] theorem State.beginCycle_scFresh (f : Nat) (v : Nat) (e : Nat) : (s.beginCycle f v e).scFresh = f := rfl
@[simp] theorem State.beginCycle_scStep (f : Nat) (v : Nat) (e : Nat) : (s.beginCycle f v e).scStep = v := rfl
@[simp] theorem State.beginCycle_scEmit (f : Nat) (v : Nat) (e : Nat) : (s.beginCycle f v e).scEmit = e := rfl
@[simp] theorem State.beginCycle_ssInputs (f : Nat) (v : Nat) (e : Nat) : (s.beginCycle f v e).ssInputs = s.ssInputs := rfl
@[simp] theorem State.beginCycle_ssStep (f : Nat) (v : Nat) (e : Nat) : (s.beginCycle f v e).ssStep = s.ssStep := rfl
@[simp] theorem State.beginCycle_synPhase (f : Nat) (v : Nat) (e : Nat) : (s.beginCycle f v e).synPhase = s.synPhase := rfl
@[simp] theorem State.beginCycle_audioOut (f : Nat) (v : Nat) (e : Nat) : (s.beginCycle f v e).audioOut = s.audioOut := rfl
@[simp] theorem State.beginCycle_txq (f : Nat) (v : Nat) (e : Nat) : (s.beginCycle f v e).txq = s.txq := rfl
@[simp] theorem State.beginCycle_txHoldValid (f : Nat) (v : Nat) (e : Nat) : (s.beginCycle f v e).txHoldValid = s.txHoldValid := rfl
@[simp] theorem State.beginCycle_txHoldFrame (f : Nat) (v : Nat) (e : Nat) : (s.beginCycle f v e).txHoldFrame = s.txHoldFrame := rfl
@[simp] theorem State.beginCycle_mboxAvail (f : Nat) (v : Nat) (e : Nat) : (s.beginCycle f v e).mboxAvail = s.mboxAvail := rfl
@[simp] theorem State.beginCycle_rxq (f : Nat) (v : Nat) (e : Nat) : (s.beginCycle f v e).rxq = s.rxq := rfl
@[simp] theorem State.beginCycle_rxDrop (f : Nat) (v : Nat) (e : Nat) : (s.beginCycle f v e).rxDrop = s.rxDrop := rfl
@[simp] theorem State.beginCycle_halted (f : Nat) (v : Nat) (e : Nat) : (s.beginCycle f v e).halted = s.halted := rfl
@[simp] theorem State.beginCycle_refused (f : Nat) (v : Nat) (e : Nat) : (s.beginCycle f v e).refused = s.refused := rfl
@[simp] theorem State.beginCycle_mdCache (f : Nat) (v : Nat) (e : Nat) : (s.beginCycle f v e).mdCache = s.mdCache := rfl
@[simp] theorem State.beginCycle_trace (f : Nat) (v : Nat) (e : Nat) : (s.beginCycle f v e).trace = s.trace := rfl
@[simp] theorem State.beginCycle_busTx (f : Nat) (v : Nat) (e : Nat) : (s.beginCycle f v e).busTx = s.busTx := rfl
@[simp] theorem State.beginCycle_ownPending (f : Nat) (v : Nat) (e : Nat) : (s.beginCycle f v e).ownPending = s.ownPending := rfl
@[simp] theorem State.beginCycle_rxOut (f : Nat) (v : Nat) (e : Nat) : (s.beginCycle f v e).rxOut = s.rxOut := rfl
@[simp] theorem State.beginCycle_displayOut (f : Nat) (v : Nat) (e : Nat) : (s.beginCycle f v e).displayOut = s.displayOut := rfl
@[simp] theorem State.beginCycle_raised (f : Nat) (v : Nat) (e : Nat) : (s.beginCycle f v e).raised = s.raised := rfl

@[simp] theorem State.setEmit_cfg (e : Nat) : (s.setEmit e).cfg = s.cfg := rfl
@[simp] theorem State.setEmit_knobs (e : Nat) : (s.setEmit e).knobs = s.knobs := rfl
@[simp] theorem State.setEmit_scPrev (e : Nat) : (s.setEmit e).scPrev = s.scPrev := rfl
@[simp] theorem State.setEmit_scBusy (e : Nat) : (s.setEmit e).scBusy = s.scBusy := rfl
@[simp] theorem State.setEmit_scFresh (e : Nat) : (s.setEmit e).scFresh = s.scFresh := rfl
@[simp] theorem State.setEmit_scStep (e : Nat) : (s.setEmit e).scStep = s.scStep := rfl
@[simp] theorem State.setEmit_scEmit (e : Nat) : (s.setEmit e).scEmit = e := rfl
@[simp] theorem State.setEmit_ssInputs (e : Nat) : (s.setEmit e).ssInputs = s.ssInputs := rfl
@[simp] theorem State.setEmit_ssStep (e : Nat) : (s.setEmit e).ssStep = s.ssStep := rfl
@[simp] theorem State.setEmit_synPhase (e : Nat) : (s.setEmit e).synPhase = s.synPhase := rfl
@[simp] theorem State.setEmit_audioOut (e : Nat) : (s.setEmit e).audioOut = s.audioOut := rfl
@[simp] theorem State.setEmit_txq (e : Nat) : (s.setEmit e).txq = s.txq := rfl
@[simp] theorem State.setEmit_txHoldValid (e : Nat) : (s.setEmit e).txHoldValid = s.txHoldValid := rfl
@[simp] theorem State.setEmit_txHoldFrame (e : Nat) : (s.setEmit e).txHoldFrame = s.txHoldFrame := rfl
@[simp] theorem State.setEmit_mboxAvail (e : Nat) : (s.setEmit e).mboxAvail = s.mboxAvail := rfl
@[simp] theorem State.setEmit_rxq (e : Nat) : (s.setEmit e).rxq = s.rxq := rfl
@[simp] theorem State.setEmit_rxDrop (e : Nat) : (s.setEmit e).rxDrop = s.rxDrop := rfl
@[simp] theorem State.setEmit_halted (e : Nat) : (s.setEmit e).halted = s.halted := rfl
@[simp] theorem State.setEmit_refused (e : Nat) : (s.setEmit e).refused = s.refused := rfl
@[simp] theorem State.setEmit_mdCache (e : Nat) : (s.setEmit e).mdCache = s.mdCache := rfl
@[simp] theorem State.setEmit_trace (e : Nat) : (s.setEmit e).trace = s.trace := rfl
@[simp] theorem State.setEmit_busTx (e : Nat) : (s.setEmit e).busTx = s.busTx := rfl
@[simp] theorem State.setEmit_ownPending (e : Nat) : (s.setEmit e).ownPending = s.ownPending := rfl
@[simp] theorem State.setEmit_rxOut (e : Nat) : (s.setEmit e).rxOut = s.rxOut := rfl
@[simp] theorem State.setEmit_displayOut (e : Nat) : (s.setEmit e).displayOut = s.displayOut := rfl
@[simp] theorem State.setEmit_raised (e : Nat) : (s.setEmit e).raised = s.raised := rfl

@[simp] theorem State.endCycle_cfg (f : Nat) : (s.endCycle f).cfg = s.cfg := rfl
@[simp] theorem State.endCycle_knobs (f : Nat) : (s.endCycle f).knobs = s.knobs := rfl
@[simp] theorem State.endCycle_scPrev (f : Nat) : (s.endCycle f).scPrev = f := rfl
@[simp] theorem State.endCycle_scBusy (f : Nat) : (s.endCycle f).scBusy = false := rfl
@[simp] theorem State.endCycle_scFresh (f : Nat) : (s.endCycle f).scFresh = s.scFresh := rfl
@[simp] theorem State.endCycle_scStep (f : Nat) : (s.endCycle f).scStep = s.scStep := rfl
@[simp] theorem State.endCycle_scEmit (f : Nat) : (s.endCycle f).scEmit = s.scEmit := rfl
@[simp] theorem State.endCycle_ssInputs (f : Nat) : (s.endCycle f).ssInputs = s.ssInputs := rfl
@[simp] theorem State.endCycle_ssStep (f : Nat) : (s.endCycle f).ssStep = s.ssStep := rfl
@[simp] theorem State.endCycle_synPhase (f : Nat) : (s.endCycle f).synPhase = s.synPhase := rfl
@[simp] theorem State.endCycle_audioOut (f : Nat) : (s.endCycle f).audioOut = s.audioOut := rfl
@[simp] theorem State.endCycle_txq (f : Nat) : (s.endCycle f).txq = s.txq := rfl
@[simp] theorem State.endCycle_txHoldValid (f : Nat) : (s.endCycle f).txHoldValid = s.txHoldValid := rfl
@[simp] theorem State.endCycle_txHoldFrame (f : Nat) : (s.endCycle f).txHoldFrame = s.txHoldFrame := rfl
@[simp] theorem State.endCycle_mboxAvail (f : Nat) : (s.endCycle f).mboxAvail = s.mboxAvail := rfl
@[simp] theorem State.endCycle_rxq (f : Nat) : (s.endCycle f).rxq = s.rxq := rfl
@[simp] theorem State.endCycle_rxDrop (f : Nat) : (s.endCycle f).rxDrop = s.rxDrop := rfl
@[simp] theorem State.endCycle_halted (f : Nat) : (s.endCycle f).halted = s.halted := rfl
@[simp] theorem State.endCycle_refused (f : Nat) : (s.endCycle f).refused = s.refused := rfl
@[simp] theorem State.endCycle_mdCache (f : Nat) : (s.endCycle f).mdCache = s.mdCache := rfl
@[simp] theorem State.endCycle_trace (f : Nat) : (s.endCycle f).trace = s.trace := rfl
@[simp] theorem State.endCycle_busTx (f : Nat) : (s.endCycle f).busTx = s.busTx := rfl
@[simp] theorem State.endCycle_ownPending (f : Nat) : (s.endCycle f).ownPending = s.ownPending := rfl
@[simp] theorem State.endCycle_rxOut (f : Nat) : (s.endCycle f).rxOut = s.rxOut := rfl
@[simp] theorem State.endCycle_displayOut (f : Nat) : (s.endCycle f).displayOut = s.displayOut := rfl
@[simp] theorem State.endCycle_raised (f : Nat) : (s.endCycle f).raised = s.raised := rfl

@[simp] theorem State.storeWrite_cfg (a : Nat) (v : Nat) : (s.storeWrite a v).cfg = s.cfg := rfl
@[simp] theorem State.storeWrite_knobs (a : Nat) (v : Nat) : (s.storeWrite a v).knobs = s.knobs := rfl
@[simp] theorem State.storeWrite_scPrev (a : Nat) (v : Nat) : (s.storeWrite a v).scPrev = s.scPrev := rfl
@[simp] theorem State.storeWrite_scBusy (a : Nat) (v : Nat) : (s.storeWrite a v).scBusy = s.scBusy := rfl
@[simp] theorem State.storeWrite_scFresh (a : Nat) (v : Nat) : (s.storeWrite a v).scFresh = s.scFresh := rfl
@[simp] theorem State.storeWrite_scStep (a : Nat) (v : Nat) : (s.storeWrite a v).scStep = s.scStep := rfl
@[simp] theorem State.storeWrite_scEmit (a : Nat) (v : Nat) : (s.storeWrite a v).scEmit = s.scEmit := rfl
@[simp] theorem State.storeWrite_ssInputs (a : Nat) (v : Nat) : (s.storeWrite a v).ssInputs = a := rfl
@[simp] theorem State.storeWrite_ssStep (a : Nat) (v : Nat) : (s.storeWrite a v).ssStep = v := rfl
@[simp] theorem State.storeWrite_synPhase (a : Nat) (v : Nat) : (s.storeWrite a v).synPhase = s.synPhase := rfl
@[simp] theorem State.storeWrite_audioOut (a : Nat) (v : Nat) : (s.storeWrite a v).audioOut = s.audioOut := rfl
@[simp] theorem State.storeWrite_txq (a : Nat) (v : Nat) : (s.storeWrite a v).txq = s.txq := rfl
@[simp] theorem State.storeWrite_txHoldValid (a : Nat) (v : Nat) : (s.storeWrite a v).txHoldValid = s.txHoldValid := rfl
@[simp] theorem State.storeWrite_txHoldFrame (a : Nat) (v : Nat) : (s.storeWrite a v).txHoldFrame = s.txHoldFrame := rfl
@[simp] theorem State.storeWrite_mboxAvail (a : Nat) (v : Nat) : (s.storeWrite a v).mboxAvail = s.mboxAvail := rfl
@[simp] theorem State.storeWrite_rxq (a : Nat) (v : Nat) : (s.storeWrite a v).rxq = s.rxq := rfl
@[simp] theorem State.storeWrite_rxDrop (a : Nat) (v : Nat) : (s.storeWrite a v).rxDrop = s.rxDrop := rfl
@[simp] theorem State.storeWrite_halted (a : Nat) (v : Nat) : (s.storeWrite a v).halted = s.halted := rfl
@[simp] theorem State.storeWrite_refused (a : Nat) (v : Nat) : (s.storeWrite a v).refused = s.refused := rfl
@[simp] theorem State.storeWrite_mdCache (a : Nat) (v : Nat) : (s.storeWrite a v).mdCache = s.mdCache := rfl
@[simp] theorem State.storeWrite_trace (a : Nat) (v : Nat) : (s.storeWrite a v).trace = s.trace := rfl
@[simp] theorem State.storeWrite_busTx (a : Nat) (v : Nat) : (s.storeWrite a v).busTx = s.busTx := rfl
@[simp] theorem State.storeWrite_ownPending (a : Nat) (v : Nat) : (s.storeWrite a v).ownPending = s.ownPending := rfl
@[simp] theorem State.storeWrite_rxOut (a : Nat) (v : Nat) : (s.storeWrite a v).rxOut = s.rxOut := rfl
@[simp] theorem State.storeWrite_displayOut (a : Nat) (v : Nat) : (s.storeWrite a v).displayOut = s.displayOut := rfl
@[simp] theorem State.storeWrite_raised (a : Nat) (v : Nat) : (s.storeWrite a v).raised = s.raised := rfl

@[simp] theorem State.storeWriteStep_cfg (v : Nat) : (s.storeWriteStep v).cfg = s.cfg := rfl
@[simp] theorem State.storeWriteStep_knobs (v : Nat) : (s.storeWriteStep v).knobs = s.knobs := rfl
@[simp] theorem State.storeWriteStep_scPrev (v : Nat) : (s.storeWriteStep v).scPrev = s.scPrev := rfl
@[simp] theorem State.storeWriteStep_scBusy (v : Nat) : (s.storeWriteStep v).scBusy = s.scBusy := rfl
@[simp] theorem State.storeWriteStep_scFresh (v : Nat) : (s.storeWriteStep v).scFresh = s.scFresh := rfl
@[simp] theorem State.storeWriteStep_scStep (v : Nat) : (s.storeWriteStep v).scStep = s.scStep := rfl
@[simp] theorem State.storeWriteStep_scEmit (v : Nat) : (s.storeWriteStep v).scEmit = s.scEmit := rfl
@[simp] theorem State.storeWriteStep_ssInputs (v : Nat) : (s.storeWriteStep v).ssInputs = s.ssInputs := rfl
@[simp] theorem State.storeWriteStep_ssStep (v : Nat) : (s.storeWriteStep v).ssStep = v := rfl
@[simp] theorem State.storeWriteStep_synPhase (v : Nat) : (s.storeWriteStep v).synPhase = s.synPhase := rfl
@[simp] theorem State.storeWriteStep_audioOut (v : Nat) : (s.storeWriteStep v).audioOut = s.audioOut := rfl
@[simp] theorem State.storeWriteStep_txq (v : Nat) : (s.storeWriteStep v).txq = s.txq := rfl
@[simp] theorem State.storeWriteStep_txHoldValid (v : Nat) : (s.storeWriteStep v).txHoldValid = s.txHoldValid := rfl
@[simp] theorem State.storeWriteStep_txHoldFrame (v : Nat) : (s.storeWriteStep v).txHoldFrame = s.txHoldFrame := rfl
@[simp] theorem State.storeWriteStep_mboxAvail (v : Nat) : (s.storeWriteStep v).mboxAvail = s.mboxAvail := rfl
@[simp] theorem State.storeWriteStep_rxq (v : Nat) : (s.storeWriteStep v).rxq = s.rxq := rfl
@[simp] theorem State.storeWriteStep_rxDrop (v : Nat) : (s.storeWriteStep v).rxDrop = s.rxDrop := rfl
@[simp] theorem State.storeWriteStep_halted (v : Nat) : (s.storeWriteStep v).halted = s.halted := rfl
@[simp] theorem State.storeWriteStep_refused (v : Nat) : (s.storeWriteStep v).refused = s.refused := rfl
@[simp] theorem State.storeWriteStep_mdCache (v : Nat) : (s.storeWriteStep v).mdCache = s.mdCache := rfl
@[simp] theorem State.storeWriteStep_trace (v : Nat) : (s.storeWriteStep v).trace = s.trace := rfl
@[simp] theorem State.storeWriteStep_busTx (v : Nat) : (s.storeWriteStep v).busTx = s.busTx := rfl
@[simp] theorem State.storeWriteStep_ownPending (v : Nat) : (s.storeWriteStep v).ownPending = s.ownPending := rfl
@[simp] theorem State.storeWriteStep_rxOut (v : Nat) : (s.storeWriteStep v).rxOut = s.rxOut := rfl
@[simp] theorem State.storeWriteStep_displayOut (v : Nat) : (s.storeWriteStep v).displayOut = s.displayOut := rfl
@[simp] theorem State.storeWriteStep_raised (v : Nat) : (s.storeWriteStep v).raised = s.raised := rfl

@[simp] theorem State.setSample_cfg (ph : Nat) (o : Int) : (s.setSample ph o).cfg = s.cfg := rfl
@[simp] theorem State.setSample_knobs (ph : Nat) (o : Int) : (s.setSample ph o).knobs = s.knobs := rfl
@[simp] theorem State.setSample_scPrev (ph : Nat) (o : Int) : (s.setSample ph o).scPrev = s.scPrev := rfl
@[simp] theorem State.setSample_scBusy (ph : Nat) (o : Int) : (s.setSample ph o).scBusy = s.scBusy := rfl
@[simp] theorem State.setSample_scFresh (ph : Nat) (o : Int) : (s.setSample ph o).scFresh = s.scFresh := rfl
@[simp] theorem State.setSample_scStep (ph : Nat) (o : Int) : (s.setSample ph o).scStep = s.scStep := rfl
@[simp] theorem State.setSample_scEmit (ph : Nat) (o : Int) : (s.setSample ph o).scEmit = s.scEmit := rfl
@[simp] theorem State.setSample_ssInputs (ph : Nat) (o : Int) : (s.setSample ph o).ssInputs = s.ssInputs := rfl
@[simp] theorem State.setSample_ssStep (ph : Nat) (o : Int) : (s.setSample ph o).ssStep = s.ssStep := rfl
@[simp] theorem State.setSample_synPhase (ph : Nat) (o : Int) : (s.setSample ph o).synPhase = ph := rfl
@[simp] theorem State.setSample_audioOut (ph : Nat) (o : Int) : (s.setSample ph o).audioOut = o := rfl
@[simp] theorem State.setSample_txq (ph : Nat) (o : Int) : (s.setSample ph o).txq = s.txq := rfl
@[simp] theorem State.setSample_txHoldValid (ph : Nat) (o : Int) : (s.setSample ph o).txHoldValid = s.txHoldValid := rfl
@[simp] theorem State.setSample_txHoldFrame (ph : Nat) (o : Int) : (s.setSample ph o).txHoldFrame = s.txHoldFrame := rfl
@[simp] theorem State.setSample_mboxAvail (ph : Nat) (o : Int) : (s.setSample ph o).mboxAvail = s.mboxAvail := rfl
@[simp] theorem State.setSample_rxq (ph : Nat) (o : Int) : (s.setSample ph o).rxq = s.rxq := rfl
@[simp] theorem State.setSample_rxDrop (ph : Nat) (o : Int) : (s.setSample ph o).rxDrop = s.rxDrop := rfl
@[simp] theorem State.setSample_halted (ph : Nat) (o : Int) : (s.setSample ph o).halted = s.halted := rfl
@[simp] theorem State.setSample_refused (ph : Nat) (o : Int) : (s.setSample ph o).refused = s.refused := rfl
@[simp] theorem State.setSample_mdCache (ph : Nat) (o : Int) : (s.setSample ph o).mdCache = s.mdCache := rfl
@[simp] theorem State.setSample_trace (ph : Nat) (o : Int) : (s.setSample ph o).trace = s.trace := rfl
@[simp] theorem State.setSample_busTx (ph : Nat) (o : Int) : (s.setSample ph o).busTx = s.busTx := rfl
@[simp] theorem State.setSample_ownPending (ph : Nat) (o : Int) : (s.setSample ph o).ownPending = s.ownPending := rfl
@[simp] theorem State.setSample_rxOut (ph : Nat) (o : Int) : (s.setSample ph o).rxOut = s.rxOut := rfl
@[simp] theorem State.setSample_displayOut (ph : Nat) (o : Int) : (s.setSample ph o).displayOut = s.displayOut := rfl
@[simp] theorem State.setSample_raised (ph : Nat) (o : Int) : (s.setSample ph o).raised = s.raised := rfl

@[simp] theorem State.setTxq_cfg (q : List Frame) : (s.setTxq q).cfg = s.cfg := rfl
@[simp] theorem State.setTxq_knobs (q : List Frame) : (s.setTxq q).knobs = s.knobs := rfl
@[simp] theorem State.setTxq_scPrev (q : List Frame) : (s.setTxq q).scPrev = s.scPrev := rfl
@[simp] theorem State.setTxq_scBusy (q : List Frame) : (s.setTxq q).scBusy = s.scBusy := rfl
@[simp] theorem State.setTxq_scFresh (q : List Frame) : (s.setTxq q).scFresh = s.scFresh := rfl
@[simp] theorem State.setTxq_scStep (q : List Frame) : (s.setTxq q).scStep = s.scStep := rfl
@[simp] theorem State.setTxq_scEmit (q : List Frame) : (s.setTxq q).scEmit = s.scEmit := rfl
@[simp] theorem State.setTxq_ssInputs (q : List Frame) : (s.setTxq q).ssInputs = s.ssInputs := rfl
@[simp] theorem State.setTxq_ssStep (q : List Frame) : (s.setTxq q).ssStep = s.ssStep := rfl
@[simp] theorem State.setTxq_synPhase (q : List Frame) : (s.setTxq q).synPhase = s.synPhase := rfl
@[simp] theorem State.setTxq_audioOut (q : List Frame) : (s.setTxq q).audioOut = s.audioOut := rfl
@[simp] theorem State.setTxq_txq (q : List Frame) : (s.setTxq q).txq = q := rfl
@[simp] theorem State.setTxq_txHoldValid (q : List Frame) : (s.setTxq q).txHoldValid = s.txHoldValid := rfl
@[simp] theorem State.setTxq_txHoldFrame (q : List Frame) : (s.setTxq q).txHoldFrame = s.txHoldFrame := rfl
@[simp] theorem State.setTxq_mboxAvail (q : List Frame) : (s.setTxq q).mboxAvail = s.mboxAvail := rfl
@[simp] theorem State.setTxq_rxq (q : List Frame) : (s.setTxq q).rxq = s.rxq := rfl
@[simp] theorem State.setTxq_rxDrop (q : List Frame) : (s.setTxq q).rxDrop = s.rxDrop := rfl
@[simp] theorem State.setTxq_halted (q : List Frame) : (s.setTxq q).halted = s.halted := rfl
@[simp] theorem State.setTxq_refused (q : List Frame) : (s.setTxq q).refused = s.refused := rfl
@[simp] theorem State.setTxq_mdCache (q : List Frame) : (s.setTxq q).mdCache = s.mdCache := rfl
@[simp] theorem State.setTxq_trace (q : List Frame) : (s.setTxq q).trace = s.trace := rfl
@[simp] theorem State.setTxq_busTx (q : List Frame) : (s.setTxq q).busTx = s.busTx := rfl
@[simp] theorem State.setTxq_ownPending (q : List Frame) : (s.setTxq q).ownPending = s.ownPending := rfl
@[simp] theorem State.setTxq_rxOut (q : List Frame) : (s.setTxq q).rxOut = s.rxOut := rfl
@[simp] theorem State.setTxq_displayOut (q : List Frame) : (s.setTxq q).displayOut = s.displayOut := rfl
@[simp] theorem State.setTxq_raised (q : List Frame) : (s.setTxq q).raised = s.raised := rfl

@[simp] theorem State.enqueueTx_cfg (f : Frame) : (s.enqueueTx f).cfg = s.cfg := rfl
@[simp] theorem State.enqueueTx_knobs (f : Frame) : (s.enqueueTx f).knobs = s.knobs := rfl
@[simp] theorem State.enqueueTx_scPrev (f : Frame) : (s.enqueueTx f).scPrev = s.scPrev := rfl
@[simp] theorem State.enqueueTx_scBusy (f : Frame) : (s.enqueueTx f).scBusy = s.scBusy := rfl
@[simp] theorem State.enqueueTx_scFresh (f : Frame) : (s.enqueueTx f).scFresh = s.scFresh := rfl
@[simp] theorem State.enqueueTx_scStep (f : Frame) : (s.enqueueTx f).scStep = s.scStep := rfl
@[simp] theorem State.enqueueTx_scEmit (f : Frame) : (s.enqueueTx f).scEmit = s.scEmit := rfl
@[simp] theorem State.enqueueTx_ssInputs (f : Frame) : (s.enqueueTx f).ssInputs = s.ssInputs := rfl
@[simp] theorem State.enqueueTx_ssStep (f : Frame) : (s.enqueueTx f).ssStep = s.ssStep := rfl
@[simp] theorem State.enqueueTx_synPhase (f : Frame) : (s.enqueueTx f).synPhase = s.synPhase := rfl
@[simp] theorem State.enqueueTx_audioOut (f : Frame) : (s.enqueueTx f).audioOut = s.audioOut := rfl
@[simp] theorem State.enqueueTx_txq (f : Frame) : (s.enqueueTx f).txq = s.txq ++ [f] := rfl
@[simp] theorem State.enqueueTx_txHoldValid (f : Frame) : (s.enqueueTx f).txHoldValid = s.txHoldValid := rfl
@[simp] theorem State.enqueueTx_txHoldFrame (f : Frame) : (s.enqueueTx f).txHoldFrame = s.txHoldFrame := rfl
@[simp] theorem State.enqueueTx_mboxAvail (f : Frame) : (s.enqueueTx f).mboxAvail = s.mboxAvail := rfl
@[simp] theorem State.enqueueTx_rxq (f : Frame) : (s.enqueueTx f).rxq = s.rxq := rfl
@[simp] theorem State.enqueueTx_rxDrop (f : Frame) : (s.enqueueTx f).rxDrop = s.rxDrop := rfl
@[simp] theorem State.enqueueTx_halted (f : Frame) : (s.enqueueTx f).halted = s.halted := rfl
@[simp] theorem State.enqueueTx_refused (f : Frame) : (s.enqueueTx f).refused = s.refused := rfl
@[simp] theorem State.enqueueTx_mdCache (f : Frame) : (s.enqueueTx f).mdCache = s.mdCache := rfl
@[simp] theorem State.enqueueTx_trace (f : Frame) : (s.enqueueTx f).trace = s.trace := rfl
@[simp] theorem State.enqueueTx_busTx (f : Frame) : (s.enqueueTx f).busTx = s.busTx := rfl
@[simp] theorem State.enqueueTx_ownPending (f : Frame) : (s.enqueueTx f).ownPending = s.ownPending := rfl
@[simp] theorem State.enqueueTx_rxOut (f : Frame) : (s.enqueueTx f).rxOut = s.rxOut := rfl
@[simp] theorem State.enqueueTx_displayOut (f : Frame) : (s.enqueueTx f).displayOut = s.displayOut := rfl
@[simp] theorem State.enqueueTx_raised (f : Frame) : (s.enqueueTx f).raised = s.raised := rfl

@[simp] theorem State.setHold_cfg (f : Frame) : (s.setHold f).cfg = s.cfg := rfl
@[simp] theorem State.setHold_knobs (f : Frame) : (s.setHold f).knobs = s.knobs := rfl
@[simp] theorem State.setHold_scPrev (f : Frame) : (s.setHold f).scPrev = s.scPrev := rfl
@[simp] theorem State.setHold_scBusy (f : Frame) : (s.setHold f).scBusy = s.scBusy := rfl
@[simp] theorem State.setHold_scFresh (f : Frame) : (s.setHold f).scFresh = s.scFresh := rfl
@[simp] theorem State.setHold_scStep (f : Frame) : (s.setHold f).scStep = s.scStep := rfl
@[simp] theorem State.setHold_scEmit (f : Frame) : (s.setHold f).scEmit = s.scEmit := rfl
@[simp] theorem State.setHold_ssInputs (f : Frame) : (s.setHold f).ssInputs = s.ssInputs := rfl
@[simp] theorem State.setHold_ssStep (f : Frame) : (s.setHold f).ssStep = s.ssStep := rfl
@[simp] theorem State.setHold_synPhase (f : Frame) : (s.setHold f).synPhase = s.synPhase := rfl
@[simp] theorem State.setHold_audioOut (f : Frame) : (s.setHold f).audioOut = s.audioOut := rfl
@[simp] theorem State.setHold_txq (f : Frame) : (s.setHold f).txq = s.txq := rfl
@[simp] theorem State.setHold_txHoldValid (f : Frame) : (s.setHold f).txHoldValid = true := rfl
@[simp] theorem State.setHold_txHoldFrame (f : Frame) : (s.setHold f).txHoldFrame = f := rfl
@[simp] theorem State.setHold_mboxAvail (f : Frame) : (s.setHold f).mboxAvail = s.mboxAvail := rfl
@[simp] theorem State.setHold_rxq (f : Frame) : (s.setHold f).rxq = s.rxq := rfl
@[simp] theorem State.setHold_rxDrop (f : Frame) : (s.setHold f).rxDrop = s.rxDrop := rfl
@[simp] theorem State.setHold_halted (f : Frame) : (s.setHold f).halted = s.halted := rfl
@[simp] theorem State.setHold_refused (f : Frame) : (s.setHold f).refused = s.refused := rfl
@[simp] theorem State.setHold_mdCache (f : Frame) : (s.setHold f).mdCache = s.mdCache := rfl
@[simp] theorem State.setHold_trace (f : Frame) : (s.setHold f).trace = s.trace := rfl
@[simp] theorem State.setHold_busTx (f : Frame) : (s.setHold f).busTx = s.busTx := rfl
@[simp] theorem State.setHold_ownPending (f : Frame) : (s.setHold f).ownPending = s.ownPending := rfl
@[simp] theorem State.setHold_rxOut (f : Frame) : (s.setHold f).rxOut = s.rxOut := rfl
@[simp] theorem State.setHold_displayOut (f : Frame) : (s.setHold f).displayOut = s.displayOut := rfl
@[simp] theorem State.setHold_raised (f : Frame) : (s.setHold f).raised = s.raised := rfl

@[simp] theorem State.clearHold_cfg : (s.clearHold).cfg = s.cfg := rfl
@[simp] theorem State.clearHold_knobs : (s.clearHold).knobs = s.knobs := rfl
@[simp] theorem State.clearHold_scPrev : (s.clearHold).scPrev = s.scPrev := rfl
@[simp] theorem State.clearHold_scBusy : (s.clearHold).scBusy = s.scBusy := rfl
@[simp] theorem State.clearHold_scFresh : (s.clearHold).scFresh = s.scFresh := rfl
@[simp] theorem State.clearHold_scStep : (s.clearHold).scStep = s.scStep := rfl
@[simp] theorem State.clearHold_scEmit : (s.clearHold).scEmit = s.scEmit := rfl
@[simp] theorem State.clearHold_ssInputs : (s.clearHold).ssInputs = s.ssInputs := rfl
@[simp] theorem State.clearHold_ssStep : (s.clearHold).ssStep = s.ssStep := rfl
@[simp] theorem State.clearHold_synPhase : (s.clearHold).synPhase = s.synPhase := rfl
@[simp] theorem State.clearHold_audioOut : (s.clearHold).audioOut = s.audioOut := rfl
@[simp] theorem State.clearHold_txq : (s.clearHold).txq = s.txq := rfl
@[simp] theorem State.clearHold_txHoldValid : (s.clearHold).txHoldValid = false := rfl
@[simp] theorem State.clearHold_txHoldFrame : (s.clearHold).txHoldFrame = s.txHoldFrame := rfl
@[simp] theorem State.clearHold_mboxAvail : (s.clearHold).mboxAvail = s.mboxAvail := rfl
@[simp] theorem State.clearHold_rxq : (s.clearHold).rxq = s.rxq := rfl
@[simp] theorem State.clearHold_rxDrop : (s.clearHold).rxDrop = s.rxDrop := rfl
@[simp] theorem State.clearHold_halted : (s.clearHold).halted = s.halted := rfl
@[simp] theorem State.clearHold_refused : (s.clearHold).refused = s.refused := rfl
@[simp] theorem State.clearHold_mdCache : (s.clearHold).mdCache = s.mdCache := rfl
@[simp] theorem State.clearHold_trace : (s.clearHold).trace = s.trace := rfl
@[simp] theorem State.clearHold_busTx : (s.clearHold).busTx = s.busTx := rfl
@[simp] theorem State.clearHold_ownPending : (s.clearHold).ownPending = s.ownPending := rfl
@[simp] theorem State.clearHold_rxOut : (s.clearHold).rxOut = s.rxOut := rfl
@[simp] theorem State.clearHold_displayOut : (s.clearHold).displayOut = s.displayOut := rfl
@[simp] theorem State.clearHold_raised : (s.clearHold).raised = s.raised := rfl

@[simp] theorem State.setMbox_cfg (n : Nat) : (s.setMbox n).cfg = s.cfg := rfl
@[simp] theorem State.setMbox_knobs (n : Nat) : (s.setMbox n).knobs = s.knobs := rfl
@[simp] theorem State.setMbox_scPrev (n : Nat) : (s.setMbox n).scPrev = s.scPrev := rfl
@[simp] theorem State.setMbox_scBusy (n : Nat) : (s.setMbox n).scBusy = s.scBusy := rfl
@[simp] theorem State.setMbox_scFresh (n : Nat) : (s.setMbox n).scFresh = s.scFresh := rfl
@[simp] theorem State.setMbox_scStep (n : Nat) : (s.setMbox n).scStep = s.scStep := rfl
@[simp] theorem State.setMbox_scEmit (n : Nat) : (s.setMbox n).scEmit = s.scEmit := rfl
@[simp] theorem State.setMbox_ssInputs (n : Nat) : (s.setMbox n).ssInputs = s.ssInputs := rfl
@[simp] theorem State.setMbox_ssStep (n : Nat) : (s.setMbox n).ssStep = s.ssStep := rfl
@[simp] theorem State.setMbox_synPhase (n : Nat) : (s.setMbox n).synPhase = s.synPhase := rfl
@[simp] theorem State.setMbox_audioOut (n : Nat) : (s.setMbox n).audioOut = s.audioOut := rfl
@[simp] theorem State.setMbox_txq (n : Nat) : (s.setMbox n).txq = s.txq := rfl
@[simp] theorem State.setMbox_txHoldValid (n : Nat) : (s.setMbox n).txHoldValid = s.txHoldValid := rfl
@[simp] theorem State.setMbox_txHoldFrame (n : Nat) : (s.setMbox n).txHoldFrame = s.txHoldFrame := rfl
@[simp] theorem State.setMbox_mboxAvail (n : Nat) : (s.setMbox n).mboxAvail = n := rfl
@[simp] theorem State.setMbox_rxq (n : Nat) : (s.setMbox n).rxq = s.rxq := rfl
@[simp] theorem State.setMbox_rxDrop (n : Nat) : (s.setMbox n).rxDrop = s.rxDrop := rfl
@[simp] theorem State.setMbox_halted (n : Nat) : (s.setMbox n).halted = s.halted := rfl
@[simp] theorem State.setMbox_refused (n : Nat) : (s.setMbox n).refused = s.refused := rfl
@[simp] theorem State.setMbox_mdCache (n : Nat) : (s.setMbox n).mdCache = s.mdCache := rfl
@[simp] theorem State.setMbox_trace (n : Nat) : (s.setMbox n).trace = s.trace := rfl
@[simp] theorem State.setMbox_busTx (n : Nat) : (s.setMbox n).busTx = s.busTx := rfl
@[simp] theorem State.setMbox_ownPending (n : Nat) : (s.setMbox n).ownPending = s.ownPending := rfl
@[simp] theorem State.setMbox_rxOut (n : Nat) : (s.setMbox n).rxOut = s.rxOut := rfl
@[simp] theorem State.setMbox_displayOut (n : Nat) : (s.setMbox n).displayOut = s.displayOut := rfl
@[simp] theorem State.setMbox_raised (n : Nat) : (s.setMbox n).raised = s.raised := rfl

@[simp] theorem State.emitBus_cfg (f : Frame) : (s.emitBus f).cfg = s.cfg := rfl
@[simp] theorem State.emitBus_knobs (f : Frame) : (s.emitBus f).knobs = s.knobs := rfl
@[simp] theorem State.emitBus_scPrev (f : Frame) : (s.emitBus f).scPrev = s.scPrev := rfl
@[simp] theorem State.emitBus_scBusy (f : Frame) : (s.emitBus f).scBusy = s.scBusy := rfl
@[simp] theorem State.emitBus_scFresh (f : Frame) : (s.emitBus f).scFresh = s.scFresh := rfl
@[simp] theorem State.emitBus_scStep (f : Frame) : (s.emitBus f).scStep = s.scStep := rfl
@[simp] theorem State.emitBus_scEmit (f : Frame) : (s.emitBus f).scEmit = s.scEmit := rfl
@[simp] theorem State.emitBus_ssInputs (f : Frame) : (s.emitBus f).ssInputs = s.ssInputs := rfl
@[simp] theorem State.emitBus_ssStep (f : Frame) : (s.emitBus f).ssStep = s.ssStep := rfl
@[simp] theorem State.emitBus_synPhase (f : Frame) : (s.emitBus f).synPhase = s.synPhase := rfl
@[simp] theorem State.emitBus_audioOut (f : Frame) : (s.emitBus f).audioOut = s.audioOut := rfl
@[simp] theorem State.emitBus_txq (f : Frame) : (s.emitBus f).txq = s.txq := rfl
@[simp] theorem State.emitBus_txHoldValid (f : Frame) : (s.emitBus f).txHoldValid = s.txHoldValid := rfl
@[simp] theorem State.emitBus_txHoldFrame (f : Frame) : (s.emitBus f).txHoldFrame = s.txHoldFrame := rfl
@[simp] theorem State.emitBus_mboxAvail (f : Frame) : (s.emitBus f).mboxAvail = s.mboxAvail := rfl
@[simp] theorem State.emitBus_rxq (f : Frame) : (s.emitBus f).rxq = s.rxq := rfl
@[simp] theorem State.emitBus_rxDrop (f : Frame) : (s.emitBus f).rxDrop = s.rxDrop := rfl
@[simp] theorem State.emitBus_halted (f : Frame) : (s.emitBus f).halted = s.halted := rfl
@[simp] theorem State.emitBus_refused (f : Frame) : (s.emitBus f).refused = s.refused := rfl
@[simp] theorem State.emitBus_mdCache (f : Frame) : (s.emitBus f).mdCache = s.mdCache := rfl
@[simp] theorem State.emitBus_trace (f : Frame) : (s.emitBus f).trace = s.trace := rfl
@[simp] theorem State.emitBus_busTx (f : Frame) : (s.emitBus f).busTx = s.busTx ++ [f] := rfl
@[simp] theorem State.emitBus_ownPending (f : Frame) : (s.emitBus f).ownPending = if s.cfg.loopback then s.ownPending ++ [f] else s.ownPending := rfl
@[simp] theorem State.emitBus_rxOut (f : Frame) : (s.emitBus f).rxOut = s.rxOut := rfl
@[simp] theorem State.emitBus_displayOut (f : Frame) : (s.emitBus f).displayOut = s.displayOut := rfl
@[simp] theorem State.emitBus_raised (f : Frame) : (s.emitBus f).raised = s.raised := rfl

@[simp] theorem State.setRxq_cfg (q : List Frame) : (s.setRxq q).cfg = s.cfg := rfl
@[simp] theorem State.setRxq_knobs (q : List Frame) : (s.setRxq q).knobs = s.knobs := rfl
@[simp] theorem State.setRxq_scPrev (q : List Frame) : (s.setRxq q).scPrev = s.scPrev := rfl
@[simp] theorem State.setRxq_scBusy (q : List Frame) : (s.setRxq q).scBusy = s.scBusy := rfl
@[simp] theorem State.setRxq_scFresh (q : List Frame) : (s.setRxq q).scFresh = s.scFresh := rfl
@[simp] theorem State.setRxq_scStep (q : List Frame) : (s.setRxq q).scStep = s.scStep := rfl
@[simp] theorem State.setRxq_scEmit (q : List Frame) : (s.setRxq q).scEmit = s.scEmit := rfl
@[simp] theorem State.setRxq_ssInputs (q : List Frame) : (s.setRxq q).ssInputs = s.ssInputs := rfl
@[simp] theorem State.setRxq_ssStep (q : List Frame) : (s.setRxq q).ssStep = s.ssStep := rfl
@[simp] theorem State.setRxq_synPhase (q : List Frame) : (s.setRxq q).synPhase = s.synPhase := rfl
@[simp] theorem State.setRxq_audioOut (q : List Frame) : (s.setRxq q).audioOut = s.audioOut := rfl
@[simp] theorem State.setRxq_txq (q : List Frame) : (s.setRxq q).txq = s.txq := rfl
@[simp] theorem State.setRxq_txHoldValid (q : List Frame) : (s.setRxq q).txHoldValid = s.txHoldValid := rfl
@[simp] theorem State.setRxq_txHoldFrame (q : List Frame) : (s.setRxq q).txHoldFrame = s.txHoldFrame := rfl
@[simp] theorem State.setRxq_mboxAvail (q : List Frame) : (s.setRxq q).mboxAvail = s.mboxAvail := rfl
@[simp] theorem State.setRxq_rxq (q : List Frame) : (s.setRxq q).rxq = q := rfl
@[simp] theorem State.setRxq_rxDrop (q : List Frame) : (s.setRxq q).rxDrop = s.rxDrop := rfl
@[simp] theorem State.setRxq_halted (q : List Frame) : (s.setRxq q).halted = s.halted := rfl
@[simp] theorem State.setRxq_refused (q : List Frame) : (s.setRxq q).refused = s.refused := rfl
@[simp] theorem State.setRxq_mdCache (q : List Frame) : (s.setRxq q).mdCache = s.mdCache := rfl
@[simp] theorem State.setRxq_trace (q : List Frame) : (s.setRxq q).trace = s.trace := rfl
@[simp] theorem State.setRxq_busTx (q : List Frame) : (s.setRxq q).busTx = s.busTx := rfl
@[simp] theorem State.setRxq_ownPending (q : List Frame) : (s.setRxq q).ownPending = s.ownPending := rfl
@[simp] theorem State.setRxq_rxOut (q : List Frame) : (s.setRxq q).rxOut = s.rxOut := rfl
@[simp] theorem State.setRxq_displayOut (q : List Frame) : (s.setRxq q).displayOut = s.displayOut := rfl
@[simp] theorem State.setRxq_raised (q : List Frame) : (s.setRxq q).raised = s.raised := rfl

@[simp] theorem State.takeOwn_cfg (f : Frame) : (s.takeOwn f).cfg = s.cfg := rfl
@[simp] theorem State.takeOwn_knobs (f : Frame) : (s.takeOwn f).knobs = s.knobs := rfl
@[simp] theorem State.takeOwn_scPrev (f : Frame) : (s.takeOwn f).scPrev = s.scPrev := rfl
@[simp] theorem State.takeOwn_scBusy (f : Frame) : (s.takeOwn f).scBusy = s.scBusy := rfl
@[simp] theorem State.takeOwn_scFresh (f : Frame) : (s.takeOwn f).scFresh = s.scFresh := rfl
@[simp] theorem State.takeOwn_scStep (f : Frame) : (s.takeOwn f).scStep = s.scStep := rfl
@[simp] theorem State.takeOwn_scEmit (f : Frame) : (s.takeOwn f).scEmit = s.scEmit := rfl
@[simp] theorem State.takeOwn_ssInputs (f : Frame) : (s.takeOwn f).ssInputs = s.ssInputs := rfl
@[simp] theorem State.takeOwn_ssStep (f : Frame) : (s.takeOwn f).ssStep = s.ssStep := rfl
@[simp] theorem State.takeOwn_synPhase (f : Frame) : (s.takeOwn f).synPhase = s.synPhase := rfl
@[simp] theorem State.takeOwn_audioOut (f : Frame) : (s.takeOwn f).audioOut = s.audioOut := rfl
@[simp] theorem State.takeOwn_txq (f : Frame) : (s.takeOwn f).txq = s.txq := rfl
@[simp] theorem State.takeOwn_txHoldValid (f : Frame) : (s.takeOwn f).txHoldValid = s.txHoldValid := rfl
@[simp] theorem State.takeOwn_txHoldFrame (f : Frame) : (s.takeOwn f).txHoldFrame = s.txHoldFrame := rfl
@[simp] theorem State.takeOwn_mboxAvail (f : Frame) : (s.takeOwn f).mboxAvail = s.mboxAvail := rfl
@[simp] theorem State.takeOwn_rxq (f : Frame) : (s.takeOwn f).rxq = s.rxq := rfl
@[simp] theorem State.takeOwn_rxDrop (f : Frame) : (s.takeOwn f).rxDrop = s.rxDrop := rfl
@[simp] theorem State.takeOwn_halted (f : Frame) : (s.takeOwn f).halted = s.halted := rfl
@[simp] theorem State.takeOwn_refused (f : Frame) : (s.takeOwn f).refused = s.refused := rfl
@[simp] theorem State.takeOwn_mdCache (f : Frame) : (s.takeOwn f).mdCache = s.mdCache := rfl
@[simp] theorem State.takeOwn_trace (f : Frame) : (s.takeOwn f).trace = s.trace := rfl
@[simp] theorem State.takeOwn_busTx (f : Frame) : (s.takeOwn f).busTx = s.busTx := rfl
@[simp] theorem State.takeOwn_ownPending (f : Frame) : (s.takeOwn f).ownPending = s.ownPending.erase f := rfl
@[simp] theorem State.takeOwn_rxOut (f : Frame) : (s.takeOwn f).rxOut = s.rxOut := rfl
@[simp] theorem State.takeOwn_displayOut (f : Frame) : (s.takeOwn f).displayOut = s.displayOut := rfl
@[simp] theorem State.takeOwn_raised (f : Frame) : (s.takeOwn f).raised = s.raised := rfl

@[simp] theorem State.countDrop_cfg : (s.countDrop).cfg = s.cfg := rfl
@[simp] theorem State.countDrop_knobs : (s.countDrop).knobs = s.knobs := rfl
@[simp] theorem State.countDrop_scPrev : (s.countDrop).scPrev = s.scPrev := rfl
@[simp] theorem State.countDrop_scBusy : (s.countDrop).scBusy = s.scBusy := rfl
@[simp] theorem State.countDrop_scFresh : (s.countDrop).scFresh = s.scFresh := rfl
@[simp] theorem State.countDrop_scStep : (s.countDrop).scStep = s.scStep := rfl
@[simp] theorem State.countDrop_scEmit : (s.countDrop).scEmit = s.scEmit := rfl
@[simp] theorem State.countDrop_ssInputs : (s.countDrop).ssInputs = s.ssInputs := rfl
@[simp] theorem State.countDrop_ssStep : (s.countDrop).ssStep = s.ssStep := rfl
@[simp] theorem State.countDrop_synPhase : (s.countDrop).synPhase = s.synPhase := rfl
@[simp] theorem State.countDrop_audioOut : (s.countDrop).audioOut = s.audioOut := rfl
@[simp] theorem State.countDrop_txq : (s.countDrop).txq = s.txq := rfl
@[simp] theorem State.countDrop_txHoldValid : (s.countDrop).txHoldValid = s.txHoldValid := rfl
@[simp] theorem State.countDrop_txHoldFrame : (s.countDrop).txHoldFrame = s.txHoldFrame := rfl
@[simp] theorem State.countDrop_mboxAvail : (s.countDrop).mboxAvail = s.mboxAvail := rfl
@[simp] theorem State.countDrop_rxq : (s.countDrop).rxq = s.rxq := rfl
@[simp] theorem State.countDrop_rxDrop : (s.countDrop).rxDrop = if s.rxDrop = BitVec.allOnes 32 then s.rxDrop else s.rxDrop + 1#32 := rfl
@[simp] theorem State.countDrop_halted : (s.countDrop).halted = s.halted := rfl
@[simp] theorem State.countDrop_refused : (s.countDrop).refused = s.refused := rfl
@[simp] theorem State.countDrop_mdCache : (s.countDrop).mdCache = s.mdCache := rfl
@[simp] theorem State.countDrop_trace : (s.countDrop).trace = s.trace := rfl
@[simp] theorem State.countDrop_busTx : (s.countDrop).busTx = s.busTx := rfl
@[simp] theorem State.countDrop_ownPending : (s.countDrop).ownPending = s.ownPending := rfl
@[simp] theorem State.countDrop_rxOut : (s.countDrop).rxOut = s.rxOut := rfl
@[simp] theorem State.countDrop_displayOut : (s.countDrop).displayOut = s.displayOut := rfl
@[simp] theorem State.countDrop_raised : (s.countDrop).raised = s.raised := rfl

@[simp] theorem State.emitRx_cfg (f : Frame) : (s.emitRx f).cfg = s.cfg := rfl
@[simp] theorem State.emitRx_knobs (f : Frame) : (s.emitRx f).knobs = s.knobs := rfl
@[simp] theorem State.emitRx_scPrev (f : Frame) : (s.emitRx f).scPrev = s.scPrev := rfl
@[simp] theorem State.emitRx_scBusy (f : Frame) : (s.emitRx f).scBusy = s.scBusy := rfl
@[simp] theorem State.emitRx_scFresh (f : Frame) : (s.emitRx f).scFresh = s.scFresh := rfl
@[simp] theorem State.emitRx_scStep (f : Frame) : (s.emitRx f).scStep = s.scStep := rfl
@[simp] theorem State.emitRx_scEmit (f : Frame) : (s.emitRx f).scEmit = s.scEmit := rfl
@[simp] theorem State.emitRx_ssInputs (f : Frame) : (s.emitRx f).ssInputs = s.ssInputs := rfl
@[simp] theorem State.emitRx_ssStep (f : Frame) : (s.emitRx f).ssStep = s.ssStep := rfl
@[simp] theorem State.emitRx_synPhase (f : Frame) : (s.emitRx f).synPhase = s.synPhase := rfl
@[simp] theorem State.emitRx_audioOut (f : Frame) : (s.emitRx f).audioOut = s.audioOut := rfl
@[simp] theorem State.emitRx_txq (f : Frame) : (s.emitRx f).txq = s.txq := rfl
@[simp] theorem State.emitRx_txHoldValid (f : Frame) : (s.emitRx f).txHoldValid = s.txHoldValid := rfl
@[simp] theorem State.emitRx_txHoldFrame (f : Frame) : (s.emitRx f).txHoldFrame = s.txHoldFrame := rfl
@[simp] theorem State.emitRx_mboxAvail (f : Frame) : (s.emitRx f).mboxAvail = s.mboxAvail := rfl
@[simp] theorem State.emitRx_rxq (f : Frame) : (s.emitRx f).rxq = s.rxq := rfl
@[simp] theorem State.emitRx_rxDrop (f : Frame) : (s.emitRx f).rxDrop = s.rxDrop := rfl
@[simp] theorem State.emitRx_halted (f : Frame) : (s.emitRx f).halted = s.halted := rfl
@[simp] theorem State.emitRx_refused (f : Frame) : (s.emitRx f).refused = s.refused := rfl
@[simp] theorem State.emitRx_mdCache (f : Frame) : (s.emitRx f).mdCache = s.mdCache := rfl
@[simp] theorem State.emitRx_trace (f : Frame) : (s.emitRx f).trace = s.trace := rfl
@[simp] theorem State.emitRx_busTx (f : Frame) : (s.emitRx f).busTx = s.busTx := rfl
@[simp] theorem State.emitRx_ownPending (f : Frame) : (s.emitRx f).ownPending = s.ownPending := rfl
@[simp] theorem State.emitRx_rxOut (f : Frame) : (s.emitRx f).rxOut = s.rxOut ++ [f] := rfl
@[simp] theorem State.emitRx_displayOut (f : Frame) : (s.emitRx f).displayOut = s.displayOut := rfl
@[simp] theorem State.emitRx_raised (f : Frame) : (s.emitRx f).raised = s.raised := rfl

@[simp] theorem State.setCache_cfg (f : Frame) : (s.setCache f).cfg = s.cfg := rfl
@[simp] theorem State.setCache_knobs (f : Frame) : (s.setCache f).knobs = s.knobs := rfl
@[simp] theorem State.setCache_scPrev (f : Frame) : (s.setCache f).scPrev = s.scPrev := rfl
@[simp] theorem State.setCache_scBusy (f : Frame) : (s.setCache f).scBusy = s.scBusy := rfl
@[simp] theorem State.setCache_scFresh (f : Frame) : (s.setCache f).scFresh = s.scFresh := rfl
@[simp] theorem State.setCache_scStep (f : Frame) : (s.setCache f).scStep = s.scStep := rfl
@[simp] theorem State.setCache_scEmit (f : Frame) : (s.setCache f).scEmit = s.scEmit := rfl
@[simp] theorem State.setCache_ssInputs (f : Frame) : (s.setCache f).ssInputs = s.ssInputs := rfl
@[simp] theorem State.setCache_ssStep (f : Frame) : (s.setCache f).ssStep = s.ssStep := rfl
@[simp] theorem State.setCache_synPhase (f : Frame) : (s.setCache f).synPhase = s.synPhase := rfl
@[simp] theorem State.setCache_audioOut (f : Frame) : (s.setCache f).audioOut = s.audioOut := rfl
@[simp] theorem State.setCache_txq (f : Frame) : (s.setCache f).txq = s.txq := rfl
@[simp] theorem State.setCache_txHoldValid (f : Frame) : (s.setCache f).txHoldValid = s.txHoldValid := rfl
@[simp] theorem State.setCache_txHoldFrame (f : Frame) : (s.setCache f).txHoldFrame = s.txHoldFrame := rfl
@[simp] theorem State.setCache_mboxAvail (f : Frame) : (s.setCache f).mboxAvail = s.mboxAvail := rfl
@[simp] theorem State.setCache_rxq (f : Frame) : (s.setCache f).rxq = s.rxq := rfl
@[simp] theorem State.setCache_rxDrop (f : Frame) : (s.setCache f).rxDrop = s.rxDrop := rfl
@[simp] theorem State.setCache_halted (f : Frame) : (s.setCache f).halted = s.halted := rfl
@[simp] theorem State.setCache_refused (f : Frame) : (s.setCache f).refused = s.refused := rfl
@[simp] theorem State.setCache_mdCache (f : Frame) : (s.setCache f).mdCache = some f := rfl
@[simp] theorem State.setCache_trace (f : Frame) : (s.setCache f).trace = s.trace := rfl
@[simp] theorem State.setCache_busTx (f : Frame) : (s.setCache f).busTx = s.busTx := rfl
@[simp] theorem State.setCache_ownPending (f : Frame) : (s.setCache f).ownPending = s.ownPending := rfl
@[simp] theorem State.setCache_rxOut (f : Frame) : (s.setCache f).rxOut = s.rxOut := rfl
@[simp] theorem State.setCache_displayOut (f : Frame) : (s.setCache f).displayOut = s.displayOut := rfl
@[simp] theorem State.setCache_raised (f : Frame) : (s.setCache f).raised = s.raised := rfl

@[simp] theorem State.emitDisplay_cfg (v : DisplayView) : (s.emitDisplay v).cfg = s.cfg := rfl
@[simp] theorem State.emitDisplay_knobs (v : DisplayView) : (s.emitDisplay v).knobs = s.knobs := rfl
@[simp] theorem State.emitDisplay_scPrev (v : DisplayView) : (s.emitDisplay v).scPrev = s.scPrev := rfl
@[simp] theorem State.emitDisplay_scBusy (v : DisplayView) : (s.emitDisplay v).scBusy = s.scBusy := rfl
@[simp] theorem State.emitDisplay_scFresh (v : DisplayView) : (s.emitDisplay v).scFresh = s.scFresh := rfl
@[simp] theorem State.emitDisplay_scStep (v : DisplayView) : (s.emitDisplay v).scStep = s.scStep := rfl
@[simp] theorem State.emitDisplay_scEmit (v : DisplayView) : (s.emitDisplay v).scEmit = s.scEmit := rfl
@[simp] theorem State.emitDisplay_ssInputs (v : DisplayView) : (s.emitDisplay v).ssInputs = s.ssInputs := rfl
@[simp] theorem State.emitDisplay_ssStep (v : DisplayView) : (s.emitDisplay v).ssStep = s.ssStep := rfl
@[simp] theorem State.emitDisplay_synPhase (v : DisplayView) : (s.emitDisplay v).synPhase = s.synPhase := rfl
@[simp] theorem State.emitDisplay_audioOut (v : DisplayView) : (s.emitDisplay v).audioOut = s.audioOut := rfl
@[simp] theorem State.emitDisplay_txq (v : DisplayView) : (s.emitDisplay v).txq = s.txq := rfl
@[simp] theorem State.emitDisplay_txHoldValid (v : DisplayView) : (s.emitDisplay v).txHoldValid = s.txHoldValid := rfl
@[simp] theorem State.emitDisplay_txHoldFrame (v : DisplayView) : (s.emitDisplay v).txHoldFrame = s.txHoldFrame := rfl
@[simp] theorem State.emitDisplay_mboxAvail (v : DisplayView) : (s.emitDisplay v).mboxAvail = s.mboxAvail := rfl
@[simp] theorem State.emitDisplay_rxq (v : DisplayView) : (s.emitDisplay v).rxq = s.rxq := rfl
@[simp] theorem State.emitDisplay_rxDrop (v : DisplayView) : (s.emitDisplay v).rxDrop = s.rxDrop := rfl
@[simp] theorem State.emitDisplay_halted (v : DisplayView) : (s.emitDisplay v).halted = s.halted := rfl
@[simp] theorem State.emitDisplay_refused (v : DisplayView) : (s.emitDisplay v).refused = s.refused := rfl
@[simp] theorem State.emitDisplay_mdCache (v : DisplayView) : (s.emitDisplay v).mdCache = s.mdCache := rfl
@[simp] theorem State.emitDisplay_trace (v : DisplayView) : (s.emitDisplay v).trace = s.trace := rfl
@[simp] theorem State.emitDisplay_busTx (v : DisplayView) : (s.emitDisplay v).busTx = s.busTx := rfl
@[simp] theorem State.emitDisplay_ownPending (v : DisplayView) : (s.emitDisplay v).ownPending = s.ownPending := rfl
@[simp] theorem State.emitDisplay_rxOut (v : DisplayView) : (s.emitDisplay v).rxOut = s.rxOut := rfl
@[simp] theorem State.emitDisplay_displayOut (v : DisplayView) : (s.emitDisplay v).displayOut = s.displayOut ++ [v] := rfl
@[simp] theorem State.emitDisplay_raised (v : DisplayView) : (s.emitDisplay v).raised = s.raised := rfl

@[simp] theorem State.setTrace_cfg (bs : List Byte) : (s.setTrace bs).cfg = s.cfg := rfl
@[simp] theorem State.setTrace_knobs (bs : List Byte) : (s.setTrace bs).knobs = s.knobs := rfl
@[simp] theorem State.setTrace_scPrev (bs : List Byte) : (s.setTrace bs).scPrev = s.scPrev := rfl
@[simp] theorem State.setTrace_scBusy (bs : List Byte) : (s.setTrace bs).scBusy = s.scBusy := rfl
@[simp] theorem State.setTrace_scFresh (bs : List Byte) : (s.setTrace bs).scFresh = s.scFresh := rfl
@[simp] theorem State.setTrace_scStep (bs : List Byte) : (s.setTrace bs).scStep = s.scStep := rfl
@[simp] theorem State.setTrace_scEmit (bs : List Byte) : (s.setTrace bs).scEmit = s.scEmit := rfl
@[simp] theorem State.setTrace_ssInputs (bs : List Byte) : (s.setTrace bs).ssInputs = s.ssInputs := rfl
@[simp] theorem State.setTrace_ssStep (bs : List Byte) : (s.setTrace bs).ssStep = s.ssStep := rfl
@[simp] theorem State.setTrace_synPhase (bs : List Byte) : (s.setTrace bs).synPhase = s.synPhase := rfl
@[simp] theorem State.setTrace_audioOut (bs : List Byte) : (s.setTrace bs).audioOut = s.audioOut := rfl
@[simp] theorem State.setTrace_txq (bs : List Byte) : (s.setTrace bs).txq = s.txq := rfl
@[simp] theorem State.setTrace_txHoldValid (bs : List Byte) : (s.setTrace bs).txHoldValid = s.txHoldValid := rfl
@[simp] theorem State.setTrace_txHoldFrame (bs : List Byte) : (s.setTrace bs).txHoldFrame = s.txHoldFrame := rfl
@[simp] theorem State.setTrace_mboxAvail (bs : List Byte) : (s.setTrace bs).mboxAvail = s.mboxAvail := rfl
@[simp] theorem State.setTrace_rxq (bs : List Byte) : (s.setTrace bs).rxq = s.rxq := rfl
@[simp] theorem State.setTrace_rxDrop (bs : List Byte) : (s.setTrace bs).rxDrop = s.rxDrop := rfl
@[simp] theorem State.setTrace_halted (bs : List Byte) : (s.setTrace bs).halted = s.halted := rfl
@[simp] theorem State.setTrace_refused (bs : List Byte) : (s.setTrace bs).refused = s.refused := rfl
@[simp] theorem State.setTrace_mdCache (bs : List Byte) : (s.setTrace bs).mdCache = s.mdCache := rfl
@[simp] theorem State.setTrace_trace (bs : List Byte) : (s.setTrace bs).trace = bs := rfl
@[simp] theorem State.setTrace_busTx (bs : List Byte) : (s.setTrace bs).busTx = s.busTx := rfl
@[simp] theorem State.setTrace_ownPending (bs : List Byte) : (s.setTrace bs).ownPending = s.ownPending := rfl
@[simp] theorem State.setTrace_rxOut (bs : List Byte) : (s.setTrace bs).rxOut = s.rxOut := rfl
@[simp] theorem State.setTrace_displayOut (bs : List Byte) : (s.setTrace bs).displayOut = s.displayOut := rfl
@[simp] theorem State.setTrace_raised (bs : List Byte) : (s.setTrace bs).raised = s.raised := rfl

end Sys2Proof.Machine
end

