-- ==== Sys2Proof/Laws/Ops.lean ====
section
/-! SUPPORT. For each shared operation, once, everything it can do. -/

namespace Sys2Proof.Machine

/-! ### The outcomes of a step -/

/-- A gated step that answers a next state completed, held, or was refused for its configuration. -/
theorem State.gate_run_cases {s t u : State} {en : Bool} (h : s.gate (s.run en t) = .next u) :
    (legal s.cfg = true ∧ en = true ∧ u = t) ∨ (legal s.cfg = true ∧ en = false ∧ u = s) ∨
      (legal s.cfg = false ∧ u = s.markRefused) := by
  unfold State.gate State.run at h
  cases hl : legal s.cfg <;> cases en <;> simp_all

/-- An enabled step under a legal configuration completes. -/
theorem State.gate_run_enabled {s : State} {en : Bool} (t : State) (hl : legal s.cfg = true)
    (he : en = true) : s.gate (s.run en t) = .next t := by simp [State.gate, State.run, hl, he]

/-- A step that is not enabled holds. -/
theorem State.gate_run_hold {s : State} {en : Bool} (t : State) (hl : legal s.cfg = true)
    (he : en = false) : s.gate (s.run en t) = .next s := by simp [State.gate, State.run, hl, he]

/-- Under an illegal configuration a gated step is refused (R9). -/
theorem State.gate_illegal {s : State} (k : Host.Outcome State Fault Refusal) (hl : legal s.cfg = false) :
    s.gate k = .next s.markRefused := by simp [State.gate, hl]

/-- A gated step never faults or is refused. -/
theorem State.gate_run_next (s t : State) (en : Bool) : ∃ u, s.gate (s.run en t) = .next u := by
  unfold State.gate State.run
  split
  · split <;> exact ⟨_, rfl⟩
  · exact ⟨_, rfl⟩

/-- A payload-checked step that answers a next state is refused for its length, or is the gated step. -/
theorem State.onPayload_cases {s t u : State} {n : Nat} {en : Bool}
    (h : s.onPayload n (s.gate (s.run en t)) = .next u) :
    (n ≠ s.cfg.frameBytes ∧ u = s.markRefused) ∨
      (n = s.cfg.frameBytes ∧ s.gate (s.run en t) = .next u) := by
  unfold State.onPayload at h
  by_cases hn : n = s.cfg.frameBytes
  · rw [if_pos hn] at h; exact .inr ⟨hn, h⟩
  · rw [if_neg hn] at h; cases h; exact .inl ⟨hn, rfl⟩

/-- A payload-checked step never faults or is refused by name. -/
theorem State.onPayload_next (s t : State) (n : Nat) (en : Bool) :
    ∃ u, s.onPayload n (s.gate (s.run en t)) = .next u := by
  unfold State.onPayload
  split
  · exact State.gate_run_next _ _ _
  · exact ⟨_, rfl⟩

/-- What a decoder operation can answer: a next state as any gated step, or no such knob. -/
theorem State.gate_onKnob_cases {s t u : State} {k : Nat} {en : Bool}
    (h : s.gate (s.onKnob k (s.run en t)) = .next u) :
    (legal s.cfg = true ∧ k < s.cfg.nKnobs ∧ en = true ∧ u = t) ∨
      (legal s.cfg = true ∧ k < s.cfg.nKnobs ∧ en = false ∧ u = s) ∨
      (legal s.cfg = false ∧ u = s.markRefused) := by
  unfold State.gate State.onKnob State.run at h
  cases hl : legal s.cfg
  · simp_all
  · by_cases hk : k < s.cfg.nKnobs
    · cases en <;> simp_all
    · simp [if_neg hk, hl] at h

/-! ### Knob decoder -/

theorem constrainRotation_le (c : Config) (v : Int) : constrainRotation c v ≤ c.rotMax := by
  have h := clamp_mem (v := v) (lo := 0) (hi := c.rotMax) (by omega)
  unfold constrainRotation; omega

/-- The rotation after the clamp: the sum where it is in range, the nearer end where it is not (R144). -/
theorem constrainRotation_cases (c : Config) (v : Int) :
    (v < 0 ∧ constrainRotation c v = 0) ∨ ((c.rotMax : Int) < v ∧ constrainRotation c v = c.rotMax) ∨
      (0 ≤ v ∧ v ≤ c.rotMax ∧ (constrainRotation c v : Int) = v) := by
  unfold constrainRotation clamp
  omega

/-- QD_STEP writes one knob, and raises QuadSkip on a SKIP (R143). -/
theorem State.stepKnob_eq (s : State) (k : Nat) (code : PhaseCode) :
    s.stepKnob k code =
      { s with
        knobs := s.knobs.set k ((s.knob k).step s.cfg code)
        raised := s.raised ++ if s.stepClass k code = .skip then [.quadSkip] else [] } := by
  unfold State.stepKnob
  by_cases h : s.stepClass k code = .skip
  · simp [h, State.raise, State.setKnob]
  · simp [h, State.setKnob]

theorem State.knob_of_getElem {s : State} {k : Nat} {n : Knob} (h : s.knobs[k]? = some n) :
    s.knob k = n := by simp [State.knob, List.getD, h]

/-- The decoder updates of a capture (R140): knob k's own update for each of the first `m` knobs, the other knobs
as before, QuadSkip once for each SKIP in ascending order, and nothing else. -/
theorem stepFirstKnobs_spec (s : State) (f m : Nat) :
    ∃ ks, (List.range m).foldl (fun s k => s.stepKnob k (phaseCode s.cfg f k)) s =
        { s with
          knobs := ks
          raised := s.raised ++ (List.range m).flatMap fun k =>
            if s.stepClass k (phaseCode s.cfg f k) = .skip then [.quadSkip] else [] } ∧
      ks.length = s.knobs.length ∧
      ∀ k, ks[k]? = if k < m then (s.knobs[k]?).map (·.step s.cfg (phaseCode s.cfg f k)) else s.knobs[k]? := by
  induction m with
  | zero => exact ⟨s.knobs, by simp, rfl, fun k => by simp⟩
  | succ m ih =>
    obtain ⟨ks, h1, h2, h3⟩ := ih
    have hm : ks.getD m Knob.reset = s.knob m := by
      simp [State.knob, List.getD, h3 m]
    refine ⟨ks.set m ((s.knob m).step s.cfg (phaseCode s.cfg f m)), ?_, by simpa using h2, fun k => ?_⟩
    · rw [List.range_succ, List.foldl_append, h1]
      simp only [List.foldl_cons, List.foldl_nil, State.stepKnob_eq, State.stepClass, State.knob, hm,
        List.flatMap_append, List.flatMap_cons, List.flatMap_nil, List.append_nil, List.append_assoc]
      rfl
    · rw [List.getElem?_set]
      by_cases hk : m = k
      · subst hk
        by_cases hlt : m < ks.length
        · simp only [if_true, hlt, if_pos (Nat.lt_succ_self m)]
          rw [h2] at hlt
          simp [State.knob, List.getD, List.getElem?_eq_getElem hlt]
        · have : s.knobs[m]? = none := List.getElem?_eq_none (by omega)
          simp [hlt, this]
      · rw [if_neg hk, h3 k]
        by_cases hkm : k < m
        · rw [if_pos hkm, if_pos (by omega)]
        · rw [if_neg hkm, if_neg (by omega)]

/-- Every knob's decoder step in a capture (R140). -/
theorem State.stepKnobs_spec (s : State) (f : Nat) :
    ∃ ks, s.stepKnobs f =
        { s with
          knobs := ks
          raised := s.raised ++ (List.range s.cfg.nKnobs).flatMap fun k =>
            if s.stepClass k (phaseCode s.cfg f k) = .skip then [.quadSkip] else [] } ∧
      ks.length = s.knobs.length ∧
      ∀ k, ks[k]? =
        if k < s.cfg.nKnobs then (s.knobs[k]?).map (·.step s.cfg (phaseCode s.cfg f k)) else s.knobs[k]? :=
  stepFirstKnobs_spec s f s.cfg.nKnobs

/-! ### Scanner -/

theorem testBit_clear (v i j : Nat) (h : v.testBit i = true) :
    (v ^^^ 2 ^ i).testBit j = (v.testBit j && decide (j ≠ i)) := by
  rw [Nat.testBit_xor, Nat.testBit_two_pow]
  by_cases hij : j = i
  · subst hij; simp [h]
  · simp [hij, Ne.symm hij]

/-- SCAN_EMIT pushes the frame `emitFrame` names and clears its key's bit; without one it does nothing. -/
theorem State.emit_cases (s : State) :
    (s.scEmit = 0 ∧ s.emitFrame = none ∧ s.emit = s) ∨
      ∃ i, s.scEmit.testBit i = true ∧ (∀ j < i, s.scEmit.testBit j = false) ∧
        s.emitFrame = some (keyFrame s.cfg s.scFresh i) ∧
        s.emit = (s.enqueueTx (keyFrame s.cfg s.scFresh i)).setEmit (s.scEmit ^^^ 2 ^ i) := by
  by_cases h : s.scEmit = 0
  · have hn : lowestBit 0 = none := by decide
    exact .inl ⟨h, by simp [State.emitFrame, h, hn], by simp [State.emit, h, hn]⟩
  · obtain ⟨i, h1, h2, h3⟩ := lowestBit_spec h
    exact .inr ⟨i, h2, h3, by simp [State.emitFrame, h1], by simp [State.emit, h1]⟩

/-! ### Frames -/

/-- A frame the block makes has `FRAME_BYTES` bytes (R104, R109). -/
theorem length_mkFrame {c : Config} (h : 3 ≤ c.frameBytes) (kind : Byte) (note : Nat) :
    (mkFrame c kind note).data.length = c.frameBytes := by
  simp only [mkFrame, List.length_cons, List.length_replicate]; omega

/-- `data[0]`, the event kind (R105). -/
@[simp] theorem dataByte_kind (id : Nat) (kind : Byte) (r : List Byte) : dataByte ⟨id, kind :: r⟩ 0 = kind := rfl

/-- `data[2]`, the note (R107). -/
@[simp] theorem dataByte_note (id : Nat) (kind octave note : Byte) (r : List Byte) :
    dataByte ⟨id, kind :: octave :: note :: r⟩ 2 = note := rfl

/-- A frame cut to its size has it. -/
theorem sized_ok (c : Config) (f : Frame) : (sized c f).id < 2 ^ c.busIdW ∧ (sized c f).data.length = c.frameBytes :=
  ⟨Nat.mod_lt _ (Nat.two_pow_pos _), by simp [sized]⟩

/-! ### The two paths -/

/-- TX_DEQ: the head moves into the holding register (R274). -/
theorem State.dequeueTx_cons {s : State} {f : Frame} {q : List Frame} (h : s.txq = f :: q) :
    s.dequeueTx = (s.setTxq q).setHold f := by simp [State.dequeueTx, h, head, pop]

/-- RX_DEQ: the head is handed out (R314). -/
theorem State.dequeueRx_cons {s : State} {f : Frame} {q : List Frame} (h : s.rxq = f :: q) :
    s.dequeueRx = (s.setRxq q).emitRx f := by simp [State.dequeueRx, h, head, pop]

/-- RX_FRAME filters, pushes, or drops and counts (R310). -/
theorem State.receive_cases (s : State) (f : Frame) :
    (f.id ≠ s.cfg.busId ∧ s.receive f = s) ∨
      (f.id = s.cfg.busId ∧ s.rxFull = false ∧ s.receive f = s.setRxq (s.rxq ++ [f])) ∨
      (f.id = s.cfg.busId ∧ s.rxFull = true ∧ s.receive f = s.countDrop.raise .rxOverrun) := by
  unfold State.receive
  by_cases h : f.id = s.cfg.busId
  · cases hf : s.rxFull <;> simp [h, push]
  · simp [h]

/-- An arrival is RX_FRAME's effect on the state whose account of own frames is settled (R310, R313). -/
theorem State.arrive_cases (s : State) (o : Origin) (f : Frame) :
    ∃ p, ((o = .peer ∧ p = s.ownPending) ∨ (o = .own ∧ p = s.ownPending.erase f)) ∧
      ((f.id ≠ s.cfg.busId ∧ s.arrive o f = { s with ownPending := p }) ∨
        (f.id = s.cfg.busId ∧ s.rxFull = false ∧
          s.arrive o f = { s with ownPending := p, rxq := s.rxq ++ [f] }) ∨
        (f.id = s.cfg.busId ∧ s.rxFull = true ∧
          s.arrive o f = { s with
            ownPending := p
            rxDrop := if s.rxDrop = BitVec.allOnes 32 then s.rxDrop else s.rxDrop + 1#32
            raised := s.raised ++ [.rxOverrun] })) := by
  cases o
  · exact ⟨_, .inl ⟨rfl, rfl⟩, s.receive_cases f⟩
  · exact ⟨_, .inr ⟨rfl, rfl⟩, (s.takeOwn f).receive_cases f⟩

/-- The message decoder writes the step size or ignores the frame, and caches it (R341). -/
theorem State.decodeFrame_cases (s : State) (f : Frame) :
    (∃ v, decodedStep s.cfg f = some v ∧ s.decodeFrame f = (s.storeWriteStep v).setCache f) ∨
      (decodedStep s.cfg f = none ∧ s.decodeFrame f = (s.raise .decodeIgnored).setCache f) := by
  unfold State.decodeFrame
  cases h : decodedStep s.cfg f with
  | some v => exact .inl ⟨v, rfl, rfl⟩
  | none => exact .inr ⟨rfl, rfl⟩

/-! ### The synthesizer: the laws of R237, of the operations SAMPLE_TICK is made of -/

/-- R237 L1: `n` ticks with a constant step size advance a phase by `n` steps, modulo `2^PHASE_W`. -/
theorem nextPhase_iterate (c : Config) (step n : Nat) {ph : Nat} (h : ph < 2 ^ c.phaseW) :
    (fun p => nextPhase c p step)^[n] ph = (ph + n * step) % 2 ^ c.phaseW := by
  induction n with
  | zero => simp [Nat.mod_eq_of_lt h]
  | succ n ih =>
    rw [Function.iterate_succ_apply', ih, nextPhase, Nat.mod_add_mod, Nat.succ_mul, Nat.add_assoc]

/-- The centered sample of a phase is a number of `SAMPLE_BITS` bits in two's complement (R113). -/
theorem centered_range {c : Config} (h : synthLegal c = true) {ph : Nat} (hp : ph < 2 ^ c.phaseW) :
    -(2 : Int) ^ (c.sampleBits - 1) ≤ centered c ph ∧ centered c ph ≤ (2 : Int) ^ (c.sampleBits - 1) - 1 := by
  simp only [synthLegal, Bool.and_eq_true, decide_eq_true_eq] at h
  have hr : rawSample c ph < 2 ^ c.sampleBits := by
    unfold rawSample
    rw [Nat.div_lt_iff_lt_mul (by positivity), ← Nat.pow_add, Nat.add_sub_cancel' h.1.2]
    exact hp
  have hd : 2 ^ c.sampleBits = 2 * 2 ^ (c.sampleBits - 1) := by
    rw [← Nat.pow_succ', Nat.succ_eq_add_one, Nat.sub_add_cancel h.1.1]
  have hi : (rawSample c ph : Int) < 2 * 2 ^ (c.sampleBits - 1) := by exact_mod_cast hd ▸ hr
  unfold centered
  omega

/-- R237 L2: the sample lies in the range of R233, at every rotation. -/
theorem sampleOf_range {c : Config} (h : synthLegal c = true) {ph : Nat} (hp : ph < 2 ^ c.phaseW) (rot : Nat) :
    -(2 : Int) ^ (c.sampleBits - 1) ≤ sampleOf c ph rot ∧ sampleOf c ph rot ≤ (2 : Int) ^ (c.sampleBits - 1) - 1 := by
  have hc := centered_range h hp
  have hb := asr_between (centered c ph) (volumeShift c rot)
  have hp : (0 : Int) < 2 ^ (c.sampleBits - 1) := by positivity
  unfold sampleOf
  omega

/-- R237 L3: for a fixed centered sample the magnitude of the output does not increase as the rotation decreases. -/
theorem sampleOf_natAbs_le {c : Config} {ph ph' rot rot' : Nat} (hc : centered c ph = centered c ph')
    (hr : rot ≤ rot') : (sampleOf c ph rot).natAbs ≤ (sampleOf c ph' rot').natAbs := by
  obtain ⟨d, hd⟩ := Nat.exists_eq_add_of_le (show volumeShift c rot' ≤ volumeShift c rot by unfold volumeShift; omega)
  have he : sampleOf c ph rot = asr (sampleOf c ph' rot') d := by
    unfold sampleOf asr
    rw [hd, hc, pow_add, Int.ediv_ediv_of_nonneg (by positivity)]
  have hb := asr_between (sampleOf c ph' rot') d
  omega

/-- R237 L4: SAMPLE_TICK's effect leaves every element but `syn_phase` and `audio_out` as it was. -/
theorem State.sample_frame (s : State) :
    s.sample = { s with synPhase := s.sample.synPhase, audioOut := s.sample.audioOut } := rfl

end Sys2Proof.Machine
end

