-- ==== Sys2Proof/Laws/Exec.lean ====
section
/-! SUPPORT. Once for every operation, everything `exec` and `step` can do: an operation completes with its effect,
holds, or is refused by the mark; a step runs a decoded operation, waits, idles, or stops on bytes that are none. -/

namespace Sys2Proof.Machine

/-- What each operation does where it completes. -/
def effect (i : Instr) (s : State) : State :=
  match i with
  | .scanCapture m => s.capture m
  | .scanEmit => s.emit
  | .scanCommit => s.commit
  | .sampleTick => s.sample
  | .txDeq => s.dequeueTx
  | .txIssue => s.issue
  | .txDone => s.complete
  | .rxFrame a data => if data.length = s.cfg.frameBytes then s.arrive a.origin ⟨a.id, data⟩ else s.markRefused
  | .mdStep => s.decodeNext
  | .displayRead => s.display
  | .reservedA => s.markRefused
  | .reservedB => s.markRefused
  | .reservedC => s.markRefused
  | .reservedD => s.markRefused
  | .reservedE => s.markRefused
  | .reservedF => s.markRefused
  | .qdT0 u => s.capture u.levels
  | .qdT1 u => s.capture u.levels
  | .qdT2 u => s.capture u.levels
  | .qdT3 u => s.capture u.levels
  | .qdT4 u => s.capture u.levels
  | .qdT5 u => s.capture u.levels
  | .qdT6 u => s.capture u.levels
  | .qdT7 u => s.capture u.levels
  | .qdT8 u => s.capture u.levels
  | .qdT9 u => s.capture u.levels
  | .qdTA u => s.capture u.levels
  | .qdTB u => s.capture u.levels
  | .qdTC u => s.capture u.levels
  | .qdTD u => s.capture u.levels
  | .qdTE u => s.capture u.levels
  | .qdTF u => s.capture u.levels
  | .framePress _ _ _ _ _ _ _ => s.decodeNext
  | .frameRelease _ _ _ _ _ _ _ => s.decodeNext
  | .txEnq _ => s.emit
  | .rxDeq => s.dequeueRx
  | .qdStep u _ => s.capture u.levels

/-- The operation whose step a row is (log entry 8): SCAN_CAPTURE for the decoder's rows, MD_STEP for the frame kinds,
SCAN_EMIT for TX_ENQ, itself for any other. -/
def rowEvent (i : Instr) : Instr :=
  match i with
  | .scanCapture m => .scanCapture m
  | .scanEmit => .scanEmit
  | .scanCommit => .scanCommit
  | .sampleTick => .sampleTick
  | .txDeq => .txDeq
  | .txIssue => .txIssue
  | .txDone => .txDone
  | .rxFrame a data => .rxFrame a data
  | .mdStep => .mdStep
  | .displayRead => .displayRead
  | .reservedA => .reservedA
  | .reservedB => .reservedB
  | .reservedC => .reservedC
  | .reservedD => .reservedD
  | .reservedE => .reservedE
  | .reservedF => .reservedF
  | .qdT0 u => .scanCapture u.levels
  | .qdT1 u => .scanCapture u.levels
  | .qdT2 u => .scanCapture u.levels
  | .qdT3 u => .scanCapture u.levels
  | .qdT4 u => .scanCapture u.levels
  | .qdT5 u => .scanCapture u.levels
  | .qdT6 u => .scanCapture u.levels
  | .qdT7 u => .scanCapture u.levels
  | .qdT8 u => .scanCapture u.levels
  | .qdT9 u => .scanCapture u.levels
  | .qdTA u => .scanCapture u.levels
  | .qdTB u => .scanCapture u.levels
  | .qdTC u => .scanCapture u.levels
  | .qdTD u => .scanCapture u.levels
  | .qdTE u => .scanCapture u.levels
  | .qdTF u => .scanCapture u.levels
  | .framePress _ _ _ _ _ _ _ => .mdStep
  | .frameRelease _ _ _ _ _ _ _ => .mdStep
  | .txEnq _ => .scanEmit
  | .rxDeq => .rxDeq
  | .qdStep u _ => .scanCapture u.levels

theorem effect_rowEvent (i : Instr) (s : State) : effect i s = effect (rowEvent i) s := by cases i <;> rfl

/-- A row is enabled only where its event is. -/
theorem enabled_rowEvent {i : Instr} {s : State} (h : enabled i s = true) : enabled (rowEvent i) s = true := by
  cases i <;> first
    | exact h
    | (simp only [enabled, State.transitionEnabled, State.qdStepEnabled, State.decodesEnabled, State.txEnqEnabled,
        Bool.and_eq_true] at h
       simp only [rowEvent, enabled, h])

/-- A payload-checked operation, in the form of `exec_cases`. -/
theorem onPayload_exec {s t u : State} {n : Nat} {en : Bool}
    (h : s.onPayload n (s.gate (s.run en u)) = .next t) :
    (legal s.cfg = true ∧ (en || n != s.cfg.frameBytes) = true ∧
        t = if n = s.cfg.frameBytes then u else s.markRefused) ∨
      (legal s.cfg = true ∧ (en || n != s.cfg.frameBytes) = false ∧ t = s) ∨
      (legal s.cfg = false ∧ t = s.markRefused) := by
  rcases State.onPayload_cases h with ⟨hn, rfl⟩ | ⟨hn, h⟩
  · cases hl : legal s.cfg <;> simp [hn]
  · simpa [hn] using State.gate_run_cases h

/-- A next state of `exec` is the operation's effect, the state itself (a hold), or the state marked refused. -/
theorem exec_cases {i : Instr} {s t : State} (h : exec i s = .next t) :
    (legal s.cfg = true ∧ enabled i s = true ∧ t = effect i s) ∨
      (legal s.cfg = true ∧ enabled i s = false ∧ t = s) ∨ (legal s.cfg = false ∧ t = s.markRefused) := by
  cases i
  case rxFrame a data => exact onPayload_exec h
  case reservedA => cases h; cases hl : legal s.cfg <;> simp [effect, enabled]
  case reservedB => cases h; cases hl : legal s.cfg <;> simp [effect, enabled]
  case reservedC => cases h; cases hl : legal s.cfg <;> simp [effect, enabled]
  case reservedD => cases h; cases hl : legal s.cfg <;> simp [effect, enabled]
  case reservedE => cases h; cases hl : legal s.cfg <;> simp [effect, enabled]
  case reservedF => cases h; cases hl : legal s.cfg <;> simp [effect, enabled]
  all_goals first
    | exact State.gate_run_cases h
    | (rcases State.gate_onKnob_cases h with ⟨h1, _, h2, h3⟩ | ⟨h1, _, h2, h3⟩ | h1
       · exact .inl ⟨h1, h2, h3⟩
       · exact .inr (.inl ⟨h1, h2, h3⟩)
       · exact .inr (.inr h1))

/-- A well-formed operation always answers a next state. -/
theorem exec_answers (s : State) (i : Instr) (hw : i.wf s.cfg = true) : ∃ t, exec i s = .next t := by
  cases i <;> simp only [Instr.wf, KnobUpdate.wf, Bool.and_eq_true, decide_eq_true_eq] at hw
  case rxFrame a data => exact State.onPayload_next _ _ _ _
  all_goals first
    | exact State.gate_run_next _ _ _
    | exact ⟨_, rfl⟩
    | (simp only [exec, execQdStep, State.transition, execQdT0, execQdT1, execQdT2, execQdT3, execQdT4, execQdT5,
        execQdT6, execQdT7, execQdT8, execQdT9, execQdTA, execQdTB, execQdTC, execQdTD, execQdTE, execQdTF, State.onKnob, if_pos hw.1]
       exact State.gate_run_next _ _ _)

/-- An operation that completes answers its effect. -/
theorem exec_enabled {i : Instr} {s : State} (hw : i.wf s.cfg = true) (hl : legal s.cfg = true)
    (he : enabled i s = true) : exec i s = .next (effect i s) := by
  obtain ⟨t, ht⟩ := exec_answers s i hw
  rcases exec_cases ht with ⟨_, _, rfl⟩ | ⟨_, h, _⟩ | ⟨h, _⟩
  · exact ht
  · rw [he] at h; cases h
  · rw [hl] at h; cases h

/-- An operation that is not enabled changes nothing. -/
theorem exec_hold {i : Instr} {s : State} (hw : i.wf s.cfg = true) (hl : legal s.cfg = true)
    (he : enabled i s = false) : exec i s = .next s := by
  obtain ⟨t, ht⟩ := exec_answers s i hw
  rcases exec_cases ht with ⟨_, h, _⟩ | ⟨_, _, rfl⟩ | ⟨h, _⟩
  · rw [he] at h; cases h
  · exact ht
  · rw [hl] at h; cases h

/-- A row that changes the state does it as the step of its event. -/
theorem exec_rowEvent {i : Instr} {s t : State} (h : exec i s = .next t) : t = s ∨ exec (rowEvent i) s = .next t := by
  rcases exec_cases h with ⟨hl, he, e⟩ | ⟨_, _, rfl⟩ | ⟨hl, e⟩
  · refine .inr ?_
    rw [effect_rowEvent] at e
    have hr := enabled_rowEvent he
    cases i <;> first
      | exact h
      | (rw [e]; exact State.gate_run_enabled _ hl hr)
  · exact .inl rfl
  · refine .inr ?_
    cases i <;> first
      | exact h
      | (rw [e]; exact State.gate_illegal _ hl)

/-- A step that answers a next state idled, waited, or ran the decoded operation. -/
theorem step_cases {s t : State} (h : step s = .next t) :
    (decode s.cfg s.trace = .empty ∧ t = s) ∨
      ∃ i rest, decode s.cfg s.trace = .instr i rest ∧
        ((holds i s = true ∧ t = s) ∨ (holds i s = false ∧ exec i (s.setTrace rest) = .next t)) := by
  unfold step State.fetch at h
  split at h
  · next hd => cases h; exact .inl ⟨hd, rfl⟩
  · next e hd => cases e <;> cases h
  · next i rest hd =>
    refine .inr ⟨i, rest, hd, ?_⟩
    split at h
    · next hh => cases h; exact .inl ⟨hh, rfl⟩
    · next hh => exact .inr ⟨by simpa using hh, h⟩

end Sys2Proof.Machine
end

