-- ==== Sys2Proof/Laws/PerInstr.lean ====
section
/-! SUPPORT. Facts about every instruction as syntax, one lemma a constructor. -/

namespace Sys2Proof.Laws.EncodeHead

/-- The first byte of each operation: the opcode table's bits, under the format's nibble (log entry 7). -/
def firstByte : Instr → Byte
  | .scanCapture _ => 0x00#8
  | .scanEmit => 0x01#8
  | .scanCommit => 0x02#8
  | .sampleTick => 0x03#8
  | .txDeq => 0x04#8
  | .txIssue => 0x05#8
  | .txDone => 0x06#8
  | .rxFrame a _ => a.origin.code
  | .mdStep => 0x08#8
  | .displayRead => 0x09#8
  | .reservedA => 0x0A#8
  | .reservedB => 0x0B#8
  | .reservedC => 0x0C#8
  | .reservedD => 0x0D#8
  | .reservedE => 0x0E#8
  | .reservedF => 0x0F#8
  | .qdT0 _ => 0x10#8
  | .qdT1 _ => 0x11#8
  | .qdT2 _ => 0x12#8
  | .qdT3 _ => 0x13#8
  | .qdT4 _ => 0x14#8
  | .qdT5 _ => 0x15#8
  | .qdT6 _ => 0x16#8
  | .qdT7 _ => 0x17#8
  | .qdT8 _ => 0x18#8
  | .qdT9 _ => 0x19#8
  | .qdTA _ => 0x1A#8
  | .qdTB _ => 0x1B#8
  | .qdTC _ => 0x1C#8
  | .qdTD _ => 0x1D#8
  | .qdTE _ => 0x1E#8
  | .qdTF _ => 0x1F#8
  | .framePress _ _ _ _ _ _ _ => 0x50#8
  | .frameRelease _ _ _ _ _ _ _ => 0x52#8
  | .txEnq _ => 0x21#8
  | .rxDeq => 0x28#8
  | .qdStep _ _ => 0x20#8

/-- The encoding begins with the operation's first byte, whatever the operands and the configuration. -/
def Statement (i : Instr) : Prop := ∀ c : Config, (encode c i).head? = some (firstByte i)

theorem scanCapture (k : Nat) : Statement (.scanCapture k) := fun _ => rfl

theorem scanEmit : Statement .scanEmit := fun _ => rfl

theorem scanCommit : Statement .scanCommit := fun _ => rfl

theorem sampleTick : Statement .sampleTick := fun _ => rfl

theorem txDeq : Statement .txDeq := fun _ => rfl

theorem txIssue : Statement .txIssue := fun _ => rfl

theorem txDone : Statement .txDone := fun _ => rfl

theorem rxFrame (a : Arrival) (data : List Byte) : Statement (.rxFrame a data) := fun _ => rfl

theorem mdStep : Statement .mdStep := fun _ => rfl

theorem displayRead : Statement .displayRead := fun _ => rfl

theorem reservedA : Statement .reservedA := fun _ => rfl

theorem reservedB : Statement .reservedB := fun _ => rfl

theorem reservedC : Statement .reservedC := fun _ => rfl

theorem reservedD : Statement .reservedD := fun _ => rfl

theorem reservedE : Statement .reservedE := fun _ => rfl

theorem reservedF : Statement .reservedF := fun _ => rfl

theorem qdT0 (u : KnobUpdate) : Statement (.qdT0 u) := fun _ => rfl

theorem qdT1 (u : KnobUpdate) : Statement (.qdT1 u) := fun _ => rfl

theorem qdT2 (u : KnobUpdate) : Statement (.qdT2 u) := fun _ => rfl

theorem qdT3 (u : KnobUpdate) : Statement (.qdT3 u) := fun _ => rfl

theorem qdT4 (u : KnobUpdate) : Statement (.qdT4 u) := fun _ => rfl

theorem qdT5 (u : KnobUpdate) : Statement (.qdT5 u) := fun _ => rfl

theorem qdT6 (u : KnobUpdate) : Statement (.qdT6 u) := fun _ => rfl

theorem qdT7 (u : KnobUpdate) : Statement (.qdT7 u) := fun _ => rfl

theorem qdT8 (u : KnobUpdate) : Statement (.qdT8 u) := fun _ => rfl

theorem qdT9 (u : KnobUpdate) : Statement (.qdT9 u) := fun _ => rfl

theorem qdTA (u : KnobUpdate) : Statement (.qdTA u) := fun _ => rfl

theorem qdTB (u : KnobUpdate) : Statement (.qdTB u) := fun _ => rfl

theorem qdTC (u : KnobUpdate) : Statement (.qdTC u) := fun _ => rfl

theorem qdTD (u : KnobUpdate) : Statement (.qdTD u) := fun _ => rfl

theorem qdTE (u : KnobUpdate) : Statement (.qdTE u) := fun _ => rfl

theorem qdTF (u : KnobUpdate) : Statement (.qdTF u) := fun _ => rfl

theorem framePress (o n r3 r4 r5 r6 : Byte) (l : List Byte) : Statement (.framePress o n r3 r4 r5 r6 l) := fun _ => rfl

theorem frameRelease (o n r3 r4 r5 r6 : Byte) (l : List Byte) : Statement (.frameRelease o n r3 r4 r5 r6 l) :=
  fun _ => rfl

theorem txEnq (f : Frame) : Statement (.txEnq f) := fun _ => rfl

theorem rxDeq : Statement .rxDeq := fun _ => rfl

theorem qdStep (u : KnobUpdate) (v : PhaseCode) : Statement (.qdStep u v) := fun _ => rfl

end Sys2Proof.Laws.EncodeHead
end

