-- ==== Sys2Proof/Tests/Slice0.lean ====
section
/-! SUPPORT. Tests: the smoke test of well-formedness, every constructor's decoding from a word written out from
the spec's tables, one step on the spec's test vectors (95_test_vectors.md; the vector's id stands in the
docstring), and, for every obligation with hypotheses, a state and operands that meet them together. -/

namespace Sys2Proof.Tests

open Sys2Proof Sys2Proof.Machine

/-! ### Helpers -/

/-- A part of the next state of one operation. -/
def after {α : Type} (i : Instr) (s : State) (f : State → α) : Option α :=
  match exec i s with
  | .next t => some (f t)
  | .fault _ => none
  | .refused _ => none

/-- The bytes `kind octave note 0 0 0 0 0`. -/
def data (kind octave note : Byte) : List Byte := [kind, octave, note, 0#8, 0#8, 0#8, 0#8, 0#8]

/-- The frame `Pn` of 95_test_vectors.md. -/
def pressOf (n : Byte) : Frame := ⟨0x123, data 0x50#8 0x04#8 n⟩

/-- The frame `Reln` of 95_test_vectors.md. -/
def relOf (n : Byte) : Frame := ⟨0x123, data 0x52#8 0x04#8 n⟩

/-- Reset, with the one knob at these values. -/
def knobAt (p : PhaseCode) (d : Dir) (r : Nat) : State := { State.reset with knobs := [⟨p, d, r⟩] }

/-- Reset, in the middle of a cycle that captured `f` with these edges and step size. -/
def inCycle (f e step : Nat) : State :=
  { State.reset with scBusy := true, scFresh := f, scEmit := e, scStep := step }

/-- Reset, with phase, step size and rotation. -/
def sounding (ph step r : Nat) : State :=
  { State.reset with synPhase := ph, ssStep := step, knobs := [⟨0b00#2, .plus, r⟩] }

/-- A full queue of 36 frames. -/
def fullQueue : List Frame := List.replicate 36 (pressOf 0x00#8)

/-- Reset with `LOOPBACK`, and `pressOf 5` emitted and not yet delivered. -/
def looped : State :=
  { State.resetWith { Config.default with loopback := true } Unspecified.zero with
    busTx := [pressOf 5#8], ownPending := [pressOf 5#8] }

/-- A configuration R9 refuses (EV5). -/
def tooManyKeys : Config := { Config.default with nNoteKeys := 13 }

/-! ### Well-formedness refuses every operand out of range (R120, R122, R143) -/

theorem test_wf_snapshot_width : (Instr.scanCapture (2 ^ 32)).wf Config.default = false := by decide

theorem test_wf_rx_identifier_width : (Instr.rxFrame ⟨.peer, 0x800⟩ []).wf Config.default = false := by
  decide

theorem test_wf_rx_payload_length :
    (Instr.rxFrame ⟨.own, 0x123⟩ (List.replicate 256 0#8)).wf Config.default = false := by decide +kernel

theorem test_wf_tx_identifier_width : (Instr.txEnq ⟨0x800, data 0#8 0#8 0#8⟩).wf Config.default = false := by decide

theorem test_wf_tx_payload_length : (Instr.txEnq ⟨0x123, [0x50#8]⟩).wf Config.default = false := by decide

theorem test_wf_press_payload_length : (Instr.framePress 4#8 5#8 0#8 0#8 0#8 0#8 []).wf Config.default = false := by
  decide

theorem test_wf_release_payload_length : (Instr.frameRelease 4#8 5#8 0#8 0#8 0#8 0#8 [0#8, 0#8]).wf Config.default = false := by
  decide

theorem test_wf_knob_of_qd_step : (Instr.qdStep ⟨1, 0⟩ 0b00#2).wf Config.default = false := by decide

theorem test_wf_levels_of_qd_step : (Instr.qdStep ⟨0, 2 ^ 32⟩ 0b00#2).wf Config.default = false := by decide

theorem test_wf_knob_of_qd_t0 : (Instr.qdT0 ⟨1, 0⟩).wf Config.default = false := by decide

theorem test_wf_knob_of_qd_t1 : (Instr.qdT1 ⟨1, 0⟩).wf Config.default = false := by decide

theorem test_wf_knob_of_qd_t2 : (Instr.qdT2 ⟨1, 0⟩).wf Config.default = false := by decide

theorem test_wf_knob_of_qd_t3 : (Instr.qdT3 ⟨1, 0⟩).wf Config.default = false := by decide

theorem test_wf_knob_of_qd_t4 : (Instr.qdT4 ⟨1, 0⟩).wf Config.default = false := by decide

theorem test_wf_knob_of_qd_t5 : (Instr.qdT5 ⟨1, 0⟩).wf Config.default = false := by decide

theorem test_wf_knob_of_qd_t6 : (Instr.qdT6 ⟨1, 0⟩).wf Config.default = false := by decide

theorem test_wf_knob_of_qd_t7 : (Instr.qdT7 ⟨1, 0⟩).wf Config.default = false := by decide

theorem test_wf_knob_of_qd_t8 : (Instr.qdT8 ⟨1, 0⟩).wf Config.default = false := by decide

theorem test_wf_knob_of_qd_t9 : (Instr.qdT9 ⟨1, 0⟩).wf Config.default = false := by decide

theorem test_wf_knob_of_qd_ta : (Instr.qdTA ⟨1, 0⟩).wf Config.default = false := by decide

theorem test_wf_knob_of_qd_tb : (Instr.qdTB ⟨1, 0⟩).wf Config.default = false := by decide

theorem test_wf_knob_of_qd_tc : (Instr.qdTC ⟨1, 0⟩).wf Config.default = false := by decide

theorem test_wf_knob_of_qd_td : (Instr.qdTD ⟨1, 0⟩).wf Config.default = false := by decide

theorem test_wf_knob_of_qd_te : (Instr.qdTE ⟨1, 0⟩).wf Config.default = false := by decide

theorem test_wf_knob_of_qd_tf : (Instr.qdTF ⟨1, 0⟩).wf Config.default = false := by decide

/-! ### Every constructor is decoded from its word (R101, R105, R120, R121; layout of log entry 7) -/

/-- What the bytes decode to under the default configuration, one byte 0xEE left over. -/
def reads (bs : List Byte) (i : Instr) : Bool := decode Config.default (bs ++ [0xEE#8]) == .instr i [0xEE#8]

/-- SC2's snapshot 0xFFFFCF6F after the code 0x0. -/
theorem test_decode_scan_capture :
    reads [0x00#8, 0x6F#8, 0xCF#8, 0xFF#8, 0xFF#8] (.scanCapture 0xFFFFCF6F) = true := by decide

theorem test_decode_scan_emit : reads [0x01#8] .scanEmit = true := by decide

theorem test_decode_scan_commit : reads [0x02#8] .scanCommit = true := by decide

theorem test_decode_sample_tick : reads [0x03#8] .sampleTick = true := by decide

theorem test_decode_tx_deq : reads [0x04#8] .txDeq = true := by decide

theorem test_decode_tx_issue : reads [0x05#8] .txIssue = true := by decide

theorem test_decode_tx_done : reads [0x06#8] .txDone = true := by decide

theorem test_decode_md_step : reads [0x08#8] .mdStep = true := by decide

theorem test_decode_display_read : reads [0x09#8] .displayRead = true := by decide

theorem test_decode_reserved_a : reads [0x0A#8] .reservedA = true := by decide

theorem test_decode_reserved_b : reads [0x0B#8] .reservedB = true := by decide

theorem test_decode_reserved_c : reads [0x0C#8] .reservedC = true := by decide

theorem test_decode_reserved_d : reads [0x0D#8] .reservedD = true := by decide

theorem test_decode_reserved_e : reads [0x0E#8] .reservedE = true := by decide

theorem test_decode_reserved_f : reads [0x0F#8] .reservedF = true := by decide

/-- `rx 0x123 50 04 05 AA BB CC DD EE` (RX7). -/
theorem test_decode_rx_frame :
    reads [0x07#8, 0x23#8, 0x01#8, 0x00#8, 0x50#8, 0x04#8, 0x05#8, 0xAA#8, 0xBB#8, 0xCC#8, 0xDD#8, 0xEE#8]
      (.rxFrame ⟨.peer, 0x123⟩ [0x50#8, 0x04#8, 0x05#8, 0xAA#8, 0xBB#8, 0xCC#8, 0xDD#8, 0xEE#8]) = true := by decide

/-- An own frame (R313), of 7 bytes (RX8). -/
theorem test_decode_rx_own_frame :
    reads [0x37#8, 0x23#8, 0x01#8, 0x01#8, 0x50#8, 0x04#8, 0x05#8, 0#8, 0#8, 0#8, 0#8]
      (.rxFrame ⟨.own, 0x123⟩ [0x50#8, 0x04#8, 0x05#8, 0#8, 0#8, 0#8, 0#8]) = true := by decide

theorem test_decode_qd_t0 : reads [0x10#8, 0x00#8, 0x6F#8, 0xCF#8, 0xFF#8, 0xFF#8]
      (.qdT0 ⟨0, 0xFFFFCF6F⟩) = true := by decide

theorem test_decode_qd_t1 : reads [0x11#8, 0x00#8, 0x6F#8, 0xCF#8, 0xFF#8, 0xFF#8]
      (.qdT1 ⟨0, 0xFFFFCF6F⟩) = true := by decide

theorem test_decode_qd_t2 : reads [0x12#8, 0x00#8, 0x6F#8, 0xCF#8, 0xFF#8, 0xFF#8]
      (.qdT2 ⟨0, 0xFFFFCF6F⟩) = true := by decide

theorem test_decode_qd_t3 : reads [0x13#8, 0x00#8, 0x6F#8, 0xCF#8, 0xFF#8, 0xFF#8]
      (.qdT3 ⟨0, 0xFFFFCF6F⟩) = true := by decide

theorem test_decode_qd_t4 : reads [0x14#8, 0x00#8, 0x6F#8, 0xCF#8, 0xFF#8, 0xFF#8]
      (.qdT4 ⟨0, 0xFFFFCF6F⟩) = true := by decide

theorem test_decode_qd_t5 : reads [0x15#8, 0x00#8, 0x6F#8, 0xCF#8, 0xFF#8, 0xFF#8]
      (.qdT5 ⟨0, 0xFFFFCF6F⟩) = true := by decide

theorem test_decode_qd_t6 : reads [0x16#8, 0x00#8, 0x6F#8, 0xCF#8, 0xFF#8, 0xFF#8]
      (.qdT6 ⟨0, 0xFFFFCF6F⟩) = true := by decide

theorem test_decode_qd_t7 : reads [0x17#8, 0x00#8, 0x6F#8, 0xCF#8, 0xFF#8, 0xFF#8]
      (.qdT7 ⟨0, 0xFFFFCF6F⟩) = true := by decide

theorem test_decode_qd_t8 : reads [0x18#8, 0x00#8, 0x6F#8, 0xCF#8, 0xFF#8, 0xFF#8]
      (.qdT8 ⟨0, 0xFFFFCF6F⟩) = true := by decide

theorem test_decode_qd_t9 : reads [0x19#8, 0x00#8, 0x6F#8, 0xCF#8, 0xFF#8, 0xFF#8]
      (.qdT9 ⟨0, 0xFFFFCF6F⟩) = true := by decide

theorem test_decode_qd_ta : reads [0x1A#8, 0x00#8, 0x6F#8, 0xCF#8, 0xFF#8, 0xFF#8]
      (.qdTA ⟨0, 0xFFFFCF6F⟩) = true := by decide

theorem test_decode_qd_tb : reads [0x1B#8, 0x00#8, 0x6F#8, 0xCF#8, 0xFF#8, 0xFF#8]
      (.qdTB ⟨0, 0xFFFFCF6F⟩) = true := by decide

theorem test_decode_qd_tc : reads [0x1C#8, 0x00#8, 0x6F#8, 0xCF#8, 0xFF#8, 0xFF#8]
      (.qdTC ⟨0, 0xFFFFCF6F⟩) = true := by decide

theorem test_decode_qd_td : reads [0x1D#8, 0x00#8, 0x6F#8, 0xCF#8, 0xFF#8, 0xFF#8]
      (.qdTD ⟨0, 0xFFFFCF6F⟩) = true := by decide

theorem test_decode_qd_te : reads [0x1E#8, 0x00#8, 0x6F#8, 0xCF#8, 0xFF#8, 0xFF#8]
      (.qdTE ⟨0, 0xFFFFCF6F⟩) = true := by decide

theorem test_decode_qd_tf : reads [0x1F#8, 0x00#8, 0x6F#8, 0xCF#8, 0xFF#8, 0xFF#8]
      (.qdTF ⟨0, 0xFFFFCF6F⟩) = true := by decide

theorem test_decode_frame_press :
    reads [0x50#8, 0x04#8, 0x05#8, 0x01#8, 0x02#8, 0x03#8, 0x04#8, 0x06#8]
      (.framePress 0x04#8 0x05#8 0x01#8 0x02#8 0x03#8 0x04#8 [0x06#8]) = true := by decide

theorem test_decode_frame_release :
    reads [0x52#8, 0x04#8, 0x0B#8, 0x01#8, 0x02#8, 0x03#8, 0x04#8, 0x06#8]
      (.frameRelease 0x04#8 0x0B#8 0x01#8 0x02#8 0x03#8 0x04#8 [0x06#8]) = true := by decide

theorem test_decode_tx_enq :
    reads [0x21#8, 0x23#8, 0x01#8, 0x50#8, 0x04#8, 0x09#8, 0#8, 0#8, 0#8, 0#8, 0#8] (.txEnq (pressOf 9#8)) = true := by
  decide

theorem test_decode_rx_deq : reads [0x28#8] .rxDeq = true := by decide

theorem test_decode_qd_step : 
    reads [0x20#8, 0x00#8, 0x6F#8, 0xCF#8, 0xFF#8, 0xFF#8, 0x03#8] (.qdStep ⟨0, 0xFFFFCF6F⟩ 0b11#2) = true := by decide

theorem test_decode_undefined : decode Config.default [0x30#8] = .reject (.undefinedWord 0x30#8) := by decide

theorem test_decode_truncated : decode Config.default [0x00#8, 0xFF#8] = .reject .truncated := by decide

theorem test_decode_no_such_knob : decode Config.default [0x10#8, 0x01#8] = .reject .operandRange := by decide

theorem test_decode_wide_identifier :
    decode Config.default [0x07#8, 0x00#8, 0x08#8, 0x08#8] = .reject .operandRange := by decide

/-- The table's words, in the table's numbering: an event, a reserved code, a frame kind. -/
theorem test_table_words :
    decodeTableWord 8 0x5 = some .txIssue ∧ decodeTableWord 8 0xA = some .reservedA ∧
      decodeTableWord 8 0x50 = some (.framePress 0#8 0#8 0#8 0#8 0#8 0#8 [0#8]) ∧
      decodeTableWord 8 0x0 = some (.scanCapture 0) ∧ decodeTableWord 8 0x7 = some (.rxFrame ⟨.peer, 0⟩
        [0#8, 0#8, 0#8, 0#8, 0#8, 0#8, 0#8, 0#8]) := by decide

/-- A table word offered after reset is the operation the next step runs: SAMPLE_TICK leaves audio_out -1 (SY13). -/
theorem test_first_step_after_reset :
    (match step (State.reset.withFetchWord 8 0x3) with
     | .next t => t.audioOut == -1
     | .fault _ => false
     | .refused _ => false) = true := by decide

/-- P1's first line in the trace's syntax (R125). -/
theorem test_trace_line : traceLine Config.default (.scanCapture 0xFFFFCFDF) = some "scan 0xFFFFCFDF" := by decide

/-- The snapshot `keys 9 knob 1` of P2 (R126). -/
theorem test_keys_knob : keysKnob Config.default [9] 0b01#2 = 0xFFFFDDFF := by decide

/-! ### Key scanner (SC, SE) -/

/-- SC1: keys 0 and 11, the highest index wins. -/
theorem test_sc1_capture :
    after (.scanCapture 0xFFFFC7FE) State.reset (fun t => (t.scFresh, t.scEmit, t.scStep)) =
      some (0xFFFFC7FE, 0x801, 96418756) := by decide

/-- SC9: active-high polarity. -/
theorem test_sc9_capture :
    after (.scanCapture 0x20) (State.resetWith { Config.default with activeLow := false } Unspecified.zero)
      (fun t => (t.scEmit, t.scStep)) = some (0x20, 68178356) := by decide

/-- SC2: the lowest pending key goes first, and key 0 is released. -/
theorem test_sc2_emit :
    after .scanEmit (inCycle 0xFFFFCF6F 0x891 76527617) (fun t => (t.txq, t.scEmit)) =
      some ([relOf 0x00#8], 0x890) := by decide

/-- SE3: a full FIFO holds the scanner. -/
theorem test_se3_emit_holds :
    after .scanEmit { inCycle 0xFFFFCFDF 0x20 0 with txq := fullQueue } (fun t => (t.txq.length, t.scEmit)) =
      some (36, 0x20) := by decide

/-- P1 line 3. -/
theorem test_p1_commit :
    after .scanCommit (inCycle 0xFFFFCFDF 0 68178356) (fun t => (t.ssInputs, t.scPrev, t.ssStep, t.scBusy)) =
      some (0xFFFFCFDF, 0xFFFFCFDF, 68178356, false) := by decide

/-- SE2: no commit while a frame is pending. -/
theorem test_se2_commit_holds :
    after .scanCommit (inCycle 0xFFFFCFDF 0x20 68178356) (fun t => (t.ssStep, t.scBusy)) = some (0, true) := by decide

/-! ### Synthesizer (SY) -/

/-- SY2: the shift rounds toward minus infinity. -/
theorem test_sy2_sample :
    after .sampleTick (sounding 0 85899346 4) (fun t => (t.synPhase, t.audioOut, t.dacCode)) =
      some (0x051EB852, -8, 120) := by decide

/-- SY4: the phase wraps. -/
theorem test_sy4_sample :
    after .sampleTick (sounding 0xFFFFFFF0 0x20 8) (fun t => (t.synPhase, t.audioOut, t.dacCode)) =
      some (0x10, -128, 0) := by decide

/-! ### Bus paths (TX, RX) -/

/-- TX1. -/
theorem test_tx1_deq :
    after .txDeq { State.reset with txq := [pressOf 0#8, pressOf 1#8] }
      (fun t => (t.txq, t.txHoldValid, t.txHoldFrame)) = some ([pressOf 1#8], true, pressOf 0#8) := by decide

/-- TX3: the holding register is full. -/
theorem test_tx3_deq_holds :
    after .txDeq { State.reset with txq := [pressOf 1#8], txHoldValid := true } (fun t => t.txq) =
      some [pressOf 1#8] := by decide

/-- TX4. -/
theorem test_tx4_issue :
    after .txIssue { State.reset with txHoldValid := true, txHoldFrame := pressOf 0#8, mboxAvail := 1 }
      (fun t => (t.busTx, t.mboxAvail, t.txHoldValid)) = some ([pressOf 0#8], 0, false) := by decide

/-- TX5. -/
theorem test_tx5_issue_holds :
    after .txIssue { State.reset with txHoldValid := true, mboxAvail := 0 } (fun t => (t.busTx, t.txHoldValid)) =
      some ([], true) := by decide

/-- TX6. -/
theorem test_tx6_done : after .txDone { State.reset with mboxAvail := 0 } (·.mboxAvail) = some 1 := by decide

/-- TX7: saturating. -/
theorem test_tx7_done : after .txDone State.reset (·.mboxAvail) = some 3 := by decide

/-- TX8: the push of P9 inside a SCAN_EMIT of key 9. -/
theorem test_tx8_enq :
    after (.txEnq (pressOf 9#8)) { inCycle 0xFFFFCDFF 0x200 85899346 with txq := List.replicate 35 (pressOf 0#8) }
      (fun t => (t.txq.length, t.txq.getLast?, t.scEmit)) = some (36, some (pressOf 9#8), 0) := by decide

/-- No other push: outside a cycle TX_ENQ waits (R270). -/
theorem test_tx_enq_waits : after (.txEnq (pressOf 9#8)) State.reset (·.txq) = some [] := by decide

/-- RX2: the acceptance filter. -/
theorem test_rx2_filtered :
    after (.rxFrame ⟨.peer, 0x7FF⟩ (pressOf 5#8).data) State.reset (fun t => (t.rxq, t.rxDrop)) = some ([], 0#32) := by
  decide

/-- RX3: the newest frame is dropped and counted. -/
theorem test_rx3_overrun :
    after (.rxFrame ⟨.peer, 0x123⟩ (relOf 5#8).data) { State.reset with rxq := fullQueue }
      (fun t => (t.rxq.length, t.rxDrop, t.raised)) = some (36, 1#32, [.rxOverrun]) := by decide

/-- An emitted frame arrives here once with `LOOPBACK`, and never without (R313). -/
theorem test_rx_own :
    after (.rxFrame ⟨.own, 0x123⟩ (pressOf 5#8).data) looped (fun t => (t.rxq, t.ownPending)) =
        some ([pressOf 5#8], []) ∧
      after (.rxFrame ⟨.own, 0x123⟩ (pressOf 5#8).data) { looped with cfg := Config.default } (·.rxq) = some [] := by
  decide

/-- With `FRAME_BYTES = 12` the payload of RX1 is one of a wrong length (R8, R310; log entry 14). -/
theorem test_rx_frame_bytes :
    after (.rxFrame ⟨.peer, 0x123⟩ (pressOf 5#8).data)
      (State.resetWith { Config.default with frameBytes := 12 } Unspecified.zero) (fun t => (t.refused, t.rxq)) =
      some (true, []) ∧ legal { Config.default with frameBytes := 7 } = false := by decide

/-- The pop port hands out the oldest frame (R314). -/
theorem test_rx_deq :
    after .rxDeq { State.reset with rxq := [pressOf 5#8, relOf 5#8] } (fun t => (t.rxq, t.rxOut)) =
      some ([relOf 5#8], [pressOf 5#8]) := by decide

/-! ### Environment (MD, D, EV) -/

/-- MD6: the octave byte is not applied. -/
theorem test_md6 :
    after .mdStep { State.reset with ssStep := 12345, rxq := [⟨0x123, data 0x50#8 0x07#8 0x05#8⟩] }
      (fun t => (t.ssStep, t.rxq, t.raised)) = some (68178356, [], []) := by decide

/-- MD3: a note above 11. -/
theorem test_md3 :
    after .mdStep { State.reset with ssStep := 12345, rxq := [pressOf 0x0C#8] }
      (fun t => (t.ssStep, t.mdCache, t.raised)) = some (12345, some (pressOf 0x0C#8), [.decodeIgnored]) := by decide

/-- MD2 under the name of the frame kind. -/
theorem test_frame_press :
    after (.framePress 0x04#8 0x0B#8 0#8 0#8 0#8 0#8 [0#8]) { State.reset with rxq := [pressOf 0x0B#8] }
      (fun t => (t.ssStep, t.mdCache, t.rxq)) = some (96418756, some (pressOf 0x0B#8), []) := by decide

/-- With no such frame at the head of `rxq` the row waits (R341, log entry 8). -/
theorem test_frame_press_waits :
    after (.framePress 0x04#8 0x0B#8 0#8 0#8 0#8 0#8 [0#8]) { State.reset with rxq := [pressOf 0x0A#8] }
      (fun t => (t.ssStep, t.rxq)) = some (0, [pressOf 0x0A#8]) := by decide

/-- MD4 under the name of the frame kind: a Release ignores its note byte. -/
theorem test_frame_release :
    after (.frameRelease 0x04#8 0x63#8 0#8 0#8 0#8 0#8 [0#8])
      { State.reset with ssStep := 12345, rxq := [relOf 0x63#8] } (fun t => (t.ssStep, t.rxq)) =
      some (0, []) := by decide

/-- D1. -/
theorem test_d1_display :
    after .displayRead { State.reset with ssInputs := 0xFFFFCFDF, ssStep := 68178356 }
      (fun t => (t.displayOut, t.ssStep)) = some ([⟨0xFFFFCFDF, 68178356, none⟩], 68178356) := by decide

/-- EV4: without its resources the block is halted. -/
theorem test_ev4_halted :
    (State.resetWith { Config.default with initOk := false } Unspecified.zero).halted = true ∧
      (State.resetWith { Config.default with initOk := false } Unspecified.zero).raised = [.initFailure] := by decide

/-- EV5: 13 note keys are refused before the run. -/
theorem test_ev5_refused : (State.resetWith tooManyKeys Unspecified.zero).refused = true := by decide

/-- EV2. -/
theorem test_ev2_reserved_a :
    after .reservedA (sounding 7 9 3) (fun t => (t.refused, t.synPhase)) = some (true, 7) := by decide

/-- EV2. -/
theorem test_ev2_reserved_b :
    after .reservedB (sounding 7 9 3) (fun t => (t.refused, t.synPhase)) = some (true, 7) := by decide

/-- EV2. -/
theorem test_ev2_reserved_c :
    after .reservedC (sounding 7 9 3) (fun t => (t.refused, t.synPhase)) = some (true, 7) := by decide

/-- EV2. -/
theorem test_ev2_reserved_d :
    after .reservedD (sounding 7 9 3) (fun t => (t.refused, t.synPhase)) = some (true, 7) := by decide

/-- EV2. -/
theorem test_ev2_reserved_e :
    after .reservedE (sounding 7 9 3) (fun t => (t.refused, t.synPhase)) = some (true, 7) := by decide

/-- EV2. -/
theorem test_ev2_reserved_f :
    after .reservedF (sounding 7 9 3) (fun t => (t.refused, t.synPhase)) = some (true, 7) := by decide

/-! ### Knob decoder (group 2.1, from rotation 4, and QB) -/

theorem test_qd_t0 :
    after (.qdT0 ⟨0, 0xFFFFCFFF⟩) (knobAt 0b00#2 .minus 4) (fun t => (t.knobs, t.raised)) =
      some ([⟨0b00#2, .minus, 4⟩], []) := by decide

theorem test_qd_t1 :
    after (.qdT1 ⟨0, 0xFFFFDFFF⟩) (knobAt 0b00#2 .minus 4) (fun t => (t.knobs, t.raised)) =
      some ([⟨0b01#2, .plus, 5⟩], []) := by decide

theorem test_qd_t2 :
    after (.qdT2 ⟨0, 0xFFFFEFFF⟩) (knobAt 0b00#2 .plus 4) (fun t => (t.knobs, t.raised)) =
      some ([⟨0b10#2, .minus, 3⟩], []) := by decide

theorem test_qd_t3 :
    after (.qdT3 ⟨0, 0xFFFFFFFF⟩) (knobAt 0b00#2 .minus 4) (fun t => (t.knobs, t.raised)) =
      some ([⟨0b11#2, .minus, 3⟩], [.quadSkip]) := by decide

theorem test_qd_t4 :
    after (.qdT4 ⟨0, 0xFFFFCFFF⟩) (knobAt 0b01#2 .plus 4) (fun t => (t.knobs, t.raised)) =
      some ([⟨0b00#2, .minus, 3⟩], []) := by decide

theorem test_qd_t5 :
    after (.qdT5 ⟨0, 0xFFFFDFFF⟩) (knobAt 0b01#2 .minus 4) (fun t => (t.knobs, t.raised)) =
      some ([⟨0b01#2, .minus, 4⟩], []) := by decide

theorem test_qd_t6 :
    after (.qdT6 ⟨0, 0xFFFFEFFF⟩) (knobAt 0b01#2 .minus 4) (fun t => (t.knobs, t.raised)) =
      some ([⟨0b10#2, .minus, 3⟩], [.quadSkip]) := by decide

theorem test_qd_t7 :
    after (.qdT7 ⟨0, 0xFFFFFFFF⟩) (knobAt 0b01#2 .minus 4) (fun t => (t.knobs, t.raised)) =
      some ([⟨0b11#2, .plus, 5⟩], []) := by decide

theorem test_qd_t8 :
    after (.qdT8 ⟨0, 0xFFFFCFFF⟩) (knobAt 0b10#2 .minus 4) (fun t => (t.knobs, t.raised)) =
      some ([⟨0b00#2, .plus, 5⟩], []) := by decide

theorem test_qd_t9 :
    after (.qdT9 ⟨0, 0xFFFFDFFF⟩) (knobAt 0b10#2 .minus 4) (fun t => (t.knobs, t.raised)) =
      some ([⟨0b01#2, .minus, 3⟩], [.quadSkip]) := by decide

theorem test_qd_ta :
    after (.qdTA ⟨0, 0xFFFFEFFF⟩) (knobAt 0b10#2 .minus 4) (fun t => (t.knobs, t.raised)) =
      some ([⟨0b10#2, .minus, 4⟩], []) := by decide

theorem test_qd_tb :
    after (.qdTB ⟨0, 0xFFFFFFFF⟩) (knobAt 0b10#2 .plus 4) (fun t => (t.knobs, t.raised)) =
      some ([⟨0b11#2, .minus, 3⟩], []) := by decide

theorem test_qd_tc :
    after (.qdTC ⟨0, 0xFFFFCFFF⟩) (knobAt 0b11#2 .minus 4) (fun t => (t.knobs, t.raised)) =
      some ([⟨0b00#2, .minus, 3⟩], [.quadSkip]) := by decide

theorem test_qd_td :
    after (.qdTD ⟨0, 0xFFFFDFFF⟩) (knobAt 0b11#2 .plus 4) (fun t => (t.knobs, t.raised)) =
      some ([⟨0b01#2, .minus, 3⟩], []) := by decide

theorem test_qd_te :
    after (.qdTE ⟨0, 0xFFFFEFFF⟩) (knobAt 0b11#2 .minus 4) (fun t => (t.knobs, t.raised)) =
      some ([⟨0b10#2, .plus, 5⟩], []) := by decide

theorem test_qd_tf :
    after (.qdTF ⟨0, 0xFFFFFFFF⟩) (knobAt 0b11#2 .minus 4) (fun t => (t.knobs, t.raised)) =
      some ([⟨0b11#2, .minus, 4⟩], []) := by decide

/-- QB5: the rotation stays 0, the direction flips. -/
theorem test_qb5 :
    after (.qdStep ⟨0, 0xFFFFEFFF⟩ 0b10#2) (knobAt 0b00#2 .plus 0) (·.knobs) =
      some [⟨0b10#2, .minus, 0⟩] := by decide

/-- QB2: a SKIP clamps too. -/
theorem test_qb2 :
    after (.qdStep ⟨0, 0xFFFFFFFF⟩ 0b11#2) (knobAt 0b00#2 .plus 8) (·.knobs) =
      some [⟨0b11#2, .plus, 8⟩] := by decide

/-- A transition row waits where the knob last sampled another code (log entry 8). -/
theorem test_qd_t1_waits :
    after (.qdT1 ⟨0, 0xFFFFDFFF⟩) (knobAt 0b10#2 .minus 4) (fun t => (t.knobs, t.scBusy)) =
      some ([⟨0b10#2, .minus, 4⟩], false) := by decide

/-- Inside a cycle no knob is stepped: QD_STEP waits (R140). -/
theorem test_qd_step_waits :
    after (.qdStep ⟨0, 0xFFFFDFFF⟩ 0b01#2) (inCycle 0xFFFFCF6F 0x891 0) (fun t => (t.knobs, t.scFresh)) =
      some ([⟨0b00#2, .plus, 0⟩], 0xFFFFCF6F) := by decide

/-! ### A state and operands that meet each obligation's hypotheses -/

/-- A run of these operations ends in a next state. -/
def completes (is : List Instr) (s : State) : Bool := (runAll is s).isSome

/-- SC2 in the middle of its cycle, one scanner frame queued, `emit` and `commit` offered. -/
def live : State :=
  { inCycle 0xFFFFCF6F 0x891 76527617 with txq := [pressOf 0#8], trace := [0x01#8, 0x02#8] }

theorem witness_DecodeEncodeRoundTrip :
    (Instr.rxFrame ⟨.peer, 0x7FF⟩ [0x50#8]).wf Config.default = true ∧
      (Instr.qdT7 ⟨0, 0xFFFFFFFF⟩).wf Config.default = true := by decide

theorem witness_DecodeReadsOnlyEncodings :
    decode Config.default [0x20#8, 0#8, 0xDF#8, 0xCF#8, 0xFF#8, 0xFF#8, 0x03#8, 0x01#8] =
      .instr (.qdStep ⟨0, 0xFFFFCFDF⟩ 0b11#2) [0x01#8] := by decide

theorem witness_FrameConstruction :
    legal Config.default = true ∧ Config.default.frameBytes = 8 ∧
      legal { Config.default with frameBytes := 12 } = true := by decide

theorem witness_ReservedCodesAreRefused :
    Instr.reservedF ∈ [Instr.reservedA, .reservedB, .reservedC, .reservedD, .reservedE, .reservedF] := by decide

theorem witness_StepRunsDecodedOperation_runs :
    Instr.scanEmit.wf live.cfg = true ∧ decode live.cfg live.trace = .instr .scanEmit [0x02#8] ∧
      holds .scanEmit live = false := by decide

theorem witness_StepRunsDecodedOperation_holds :
    Instr.scanCommit.wf live.cfg = true ∧ decode live.cfg [0x02#8] = .instr .scanCommit [] ∧
      holds .scanCommit { live with trace := [0x02#8] } = true := by decide

theorem witness_StepRunsDecodedOperation_idle : State.reset.trace = [] := rfl

theorem witness_StepStopsOnlyOnNonOperations : ∀ t, step { State.reset with trace := [0xFF#8] } ≠ .next t := by
  intro t h
  have e : step { State.reset with trace := [0xFF#8] } = .refused (.undefinedWord 0xFF#8) := rfl
  rw [e] at h
  cases h

theorem live_snapshotOk (v : Nat) (h : v < 2 ^ 32) : snapshotOk Config.default v :=
  ⟨h, fun i h1 h2 => by
    have : Config.default.nRows * Config.default.nCols = Config.default.snapW := by decide
    omega⟩

theorem witness_StepKeepsInvariant_state : InRange live where
  cfgLegal := by decide
  knobCount := by decide
  rotations := by decide
  scPrev := live_snapshotOk _ (by decide)
  scFresh := by decide
  scFreshBusy := fun _ => live_snapshotOk _ (by decide)
  scStep := by decide
  scEmit := by decide
  ssInputs := live_snapshotOk _ (by decide)
  ssStep := by decide
  synPhase := by decide
  audioLow := by decide
  audioHigh := by decide
  txqBound := by decide
  mboxBound := by decide
  rxqBound := by decide
  txqFrames := by unfold frameOk; decide
  holdFrame := by unfold frameOk; decide
  rxqFrames := by unfold frameOk; decide
  cacheFrame := by intro f hf; cases hf
  pendingFrames := by unfold frameOk; decide
  pendingLoopback := fun _ => rfl

theorem witness_StepKeepsInvariant_step :
    (match step live with
     | .next _ => true
     | .fault _ => false
     | .refused _ => false) = true := by decide

theorem witness_ResetMeetsInvariant : legal { Config.default with busId := 0x7FF, octaveTx := 0x09#8 } = true := by
  decide

theorem witness_EventsSendOnlyScannerFrames_built : txBuilt live :=
  ⟨by
    intro f hf
    rw [List.mem_singleton.mp hf]
    exact ⟨kindPress, 0, .inl rfl, by decide, rfl⟩,
   fun h => absurd h (by decide), fun _ h => absurd h List.not_mem_nil⟩

theorem witness_EventsSendOnlyScannerFrames_event :
    decode live.cfg live.trace = .instr .scanEmit [0x02#8] ∧ (∃ t, step live = .next t) :=
  ⟨by decide, ⟨_, rfl⟩⟩

theorem witness_HaltAndParametersAreFixed : ∃ t, step { live with refused := true } = .next t := ⟨_, rfl⟩

theorem witness_HaltedBlockTakesNoStep :
    let s := { live with halted := true }
    legal s.cfg = true ∧ s.halted = true ∧ Instr.scanEmit.wf s.cfg = true ∧ Instr.scanEmit.agent ≠ none ∧
      (Instr.rxFrame ⟨.peer, 0x123⟩ (pressOf 5#8).data).wf s.cfg = true ∧
      (Instr.rxFrame ⟨.peer, 0x123⟩ (pressOf 5#8).data).agent ≠ none ∧ (pressOf 5#8).data.length = 8 := by decide

theorem witness_IllegalConfigurationIsRefused : legal { State.reset with cfg := tooManyKeys }.cfg = false := by decide

theorem witness_ResetStateAndEnabledSteps :
    (legal Config.default = true ∧ Config.default.initOk = true) ∧
      legal { Config.default with initOk := false } = true := by decide

theorem witness_FirstStepsAfterReset :
    (legal Config.default = true ∧ Config.default.initOk = true ∧ 0 < Config.default.nKnobs ∧
      11 < Config.default.nNoteKeys ∧ Config.default.sampleBits = 8 ∧ Config.default.maxVolume = 8) ∧
      after (.scanCapture 0xFFFFFFFF) State.reset (fun t => phaseCode Config.default t.scFresh 0) = some 0b11#2 := by
  decide

theorem witness_QdStepByClass :
    let s := knobAt 0b11#2 .minus 8
    s.knobs[0]? = some ⟨0b11#2, .minus, 8⟩ ∧ 8 ≤ s.cfg.rotMax := by decide

/-- An idle scanner, and a capture that moves the knob. -/
theorem witness_KnobsStepOnlyInCapture :
    (legal State.reset.cfg = true ∧ State.reset.halted = false ∧ State.reset.scBusy = false) ∧
      after (.qdT1 ⟨0, 0xFFFFDFFF⟩) State.reset (fun t => t.knobs != State.reset.knobs) = some true := by decide

/-- A knob at ROT_MAX, idle with the row's code in the snapshot; inside a cycle; and with another code. -/
theorem witness_QdStepRowEffect :
    let s := knobAt 0b00#2 .minus 8
    (legal s.cfg = true ∧ s.halted = false ∧ 0 < s.cfg.nKnobs ∧ s.knobs[0]? = some ⟨0b00#2, .minus, 8⟩ ∧
        8 ≤ s.cfg.rotMax) ∧
      (s.scBusy = false ∧ phaseCode s.cfg (assemble s.cfg 0xFFFFFFFF) 0 = 0b11#2) ∧
      (inCycle 0xFFFFCF6F 0x891 0).scBusy = true ∧
      phaseCode s.cfg (assemble s.cfg 0xFFFFFFFF) 0 ≠ 0b01#2 := by decide

theorem witness_TransitionRowsByClass_runs :
    let s := knobAt 0b00#2 .minus 0
    (Instr.qdT3 ⟨0, 0xFFFFFFFF⟩).transition = some (⟨0, 0xFFFFFFFF⟩, 0b00#2, 0b11#2) ∧ legal s.cfg = true ∧
      s.halted = false ∧ 0 < s.cfg.nKnobs ∧ s.knobs[0]? = some ⟨0b00#2, .minus, 0⟩ ∧ 0 ≤ s.cfg.rotMax ∧
      s.scBusy = false ∧ phaseCode s.cfg (assemble s.cfg 0xFFFFFFFF) 0 = 0b11#2 := by decide

/-- The knob last sampled another code; the snapshot has another code; a cycle is under way. -/
theorem witness_TransitionRowsByClass_waits :
    let s := knobAt 0b10#2 .plus 8
    (Instr.qdTF ⟨0, 0xFFFFCFFF⟩).transition = some (⟨0, 0xFFFFCFFF⟩, 0b11#2, 0b11#2) ∧ legal s.cfg = true ∧
      s.halted = false ∧ 0 < s.cfg.nKnobs ∧ s.knobs[0]? = some ⟨0b10#2, .plus, 8⟩ ∧ 8 ≤ s.cfg.rotMax ∧
      (0b10#2 : PhaseCode) ≠ 0b11#2 ∧ phaseCode s.cfg (assemble s.cfg 0xFFFFCFFF) 0 ≠ 0b11#2 ∧
      { s with scBusy := true }.scBusy = true := by decide

/-- The sum falls below 0. -/
theorem witness_RotationSaturates_low :
    let s := knobAt 0b00#2 .plus 0
    legal s.cfg = true ∧ s.halted = false ∧ s.scBusy = false ∧ 0 < s.cfg.nKnobs ∧
      s.knobs[0]? = some ⟨0b00#2, .plus, 0⟩ ∧
      after (.scanCapture 0xFFFFEFFF) s (fun t => phaseCode s.cfg t.scFresh 0) = some 0b10#2 ∧
      transClass s.cfg 0b00#2 0b10#2 = .dec ∧ (0 : Int) + -1 < 0 := by decide

/-- The sum exceeds ROT_MAX. -/
theorem witness_RotationSaturates_high :
    let s := knobAt 0b00#2 .plus 8
    legal s.cfg = true ∧ s.halted = false ∧ s.scBusy = false ∧ 0 < s.cfg.nKnobs ∧
      s.knobs[0]? = some ⟨0b00#2, .plus, 8⟩ ∧
      after (.scanCapture 0xFFFFDFFF) s (fun t => phaseCode s.cfg t.scFresh 0) = some 0b01#2 ∧
      transClass s.cfg 0b00#2 0b01#2 = .inc ∧ (s.cfg.rotMax : Int) < 8 + 1 := by decide

/-- The sum is ROT_MAX itself. -/
theorem witness_RotationSaturates_exact :
    let s := knobAt 0b00#2 .plus 7
    legal s.cfg = true ∧ s.halted = false ∧ s.scBusy = false ∧ 0 < s.cfg.nKnobs ∧
      s.knobs[0]? = some ⟨0b00#2, .plus, 7⟩ ∧
      after (.scanCapture 0xFFFFFFFF) s (fun t => phaseCode s.cfg t.scFresh 0) = some 0b11#2 ∧
      transClass s.cfg 0b00#2 0b11#2 = .skip ∧ (7 : Int) + s.cfg.qdSkipWeight ≤ s.cfg.rotMax := by decide

theorem witness_ForwardTurnAddsFour :
    let s := knobAt 0b00#2 .minus 6
    s.cfg.qdClass = defaultQdClass ∧ s.knobs[0]? = some ⟨0b00#2, .minus, 6⟩ ∧ 6 ≤ s.cfg.rotMax := by decide

theorem witness_CaptureEffect :
    let s := knobAt 0b11#2 .minus 5
    legal s.cfg = true ∧ s.halted = false ∧ s.scBusy = false ∧ s.knobs.length = s.cfg.nKnobs ∧
      (∀ n ∈ s.knobs, n.rot ≤ s.cfg.rotMax) ∧ s.knobs[0]? = some ⟨0b11#2, .minus, 5⟩ ∧
      s.cfg.qdABit[0]? = some 12 ∧ s.cfg.qdBBit[0]? = some 13 := by decide

/-- No key is pressed; and key 11, the last, is. -/
theorem witness_CaptureEffect_clauses :
    (∀ i, i < 12 → pressed Config.default 0xFFFFCFFF i = false) ∧ pressed Config.default 0xFFFFC7FE 11 = true ∧
      ∀ i, 11 < i → i < 12 → pressed Config.default 0xFFFFC7FE i = false :=
  ⟨by decide, by decide, fun i h1 h2 => by omega⟩

theorem witness_EmitEffect :
    legal live.cfg = true ∧ live.halted = false ∧ live.scBusy = true ∧ live.scEmit ≠ 0 ∧
      live.txq.length ≠ live.cfg.txqCap := by decide

theorem witness_EmitHoldsOnFullFifo :
    let s := { live with txq := fullQueue }
    legal s.cfg = true ∧ s.halted = false ∧ s.scBusy = true ∧ s.scEmit ≠ 0 ∧ s.txq.length = s.cfg.txqCap ∧
      s.txHoldValid = false := by decide

theorem witness_CommitEffect :
    let s := inCycle 0xFFFFCFDF 0 68178356
    legal s.cfg = true ∧ s.halted = false ∧ s.scBusy = true ∧ s.scEmit = 0 := by decide

theorem witness_ScannerEnabling :
    (legal live.cfg = true ∧ live.halted = false ∧ live.scBusy = true ∧ live.scEmit ≠ 0) ∧
      legal State.reset.cfg = true ∧ State.reset.halted = false ∧ State.reset.scBusy = false := by decide

/-- SE5: nothing is pending; and a full FIFO. -/
theorem witness_ScannerEnabling_emitHolds :
    let s := inCycle 0xFFFFCFDF 0 68178356
    let s' := { live with txq := fullQueue }
    (legal s.cfg = true ∧ s.halted = false ∧ s.scBusy = true ∧ s.scEmit = 0) ∧
      legal s'.cfg = true ∧ s'.halted = false ∧ s'.scBusy = true ∧ s'.txq.length = s'.cfg.txqCap := by decide

/-- SC6 with 24 frames queued: the 12 frames of the cycle fill the FIFO. -/
theorem witness_CycleSendsEachEdgeOnce :
    let s := { State.reset with txq := List.replicate 24 (pressOf 0#8) }
    legal s.cfg = true ∧ s.halted = false ∧ s.scBusy = false ∧
      s.txq.length + ((List.range s.cfg.nNoteKeys).filter fun i =>
        pressed s.cfg (assemble s.cfg 0xFFFFC000) i != pressed s.cfg s.scPrev i).length ≤ s.cfg.txqCap := by
  decide

theorem witness_StorePairIsOfOneCycle :
    let s := inCycle 0xFFFFCF6F 0 76527617
    (s.scBusy = true → s.scStep = selectedStep s.cfg s.scFresh) ∧ completes [.scanCommit] s = true := by decide

/-- SC1 with both polarities, after reset. -/
theorem witness_PolarityOnlyThroughPressed :
    let s := State.reset
    let s' := State.resetWith { Config.default with activeLow := false } Unspecified.zero
    s'.cfg = { s.cfg with activeLow := !s.cfg.activeLow } ∧ s.halted = false ∧ s'.halted = false ∧
      s.scBusy = false ∧ s'.scBusy = false ∧ legal s.cfg = true ∧
      (∀ i, i < s.cfg.snapW → (0x00003801).testBit i = !(0xFFFFC7FE).testBit i) ∧
      (∀ i, i < s.cfg.nNoteKeys → s'.scPrev.testBit i = !s.scPrev.testBit i) ∧
      completes [.scanCapture 0xFFFFC7FE] s = true ∧ completes [.scanCapture 0x00003801] s' = true := by decide

theorem witness_SampleTickEffect :
    let s := sounding 0xFFFFFFFF 1 7
    legal s.cfg = true ∧ s.halted = false ∧ s.knobs[s.cfg.volKnob]? = some ⟨0b00#2, .plus, 7⟩ := by decide

theorem witness_SampleStaysInRange :
    let s := sounding 0x7F000000 0x01000000 8
    legal s.cfg = true ∧ s.halted = false ∧ completes [.sampleTick] s = true := by decide

theorem witness_PhaseAfterTicks :
    let s := sounding 0 85899346 8
    legal s.cfg = true ∧ s.halted = false ∧ s.synPhase < 2 ^ s.cfg.phaseW := by decide

theorem witness_LowerRotationIsNotLouder :
    let s := sounding 0 85899346 0
    let s' := sounding 0 85899346 8
    legal s.cfg = true ∧ s'.cfg = s.cfg ∧ s.halted = false ∧ s'.halted = false ∧ s'.synPhase = s.synPhase ∧
      s'.ssStep = s.ssStep ∧ s.getRotation s.cfg.volKnob ≤ s'.getRotation s.cfg.volKnob ∧
      completes [.sampleTick] s = true ∧ completes [.sampleTick] s' = true := by decide

theorem witness_SampleWritesOnlyPhaseAndOutput :
    legal live.cfg = true ∧ live.halted = false ∧ { live with halted := true }.halted = true := by decide

theorem witness_SampleInsideCycle :
    let s := sounding 0 85899346 4
    legal s.cfg = true ∧ s.halted = false ∧ s.scBusy = false ∧
      completes [.scanCapture 0xFFFFDDFF, .sampleTick] s = true := by decide

/-- Key 0 is the lowest pending of 0x891: its Release frame is the one pushed, any other waits. -/
theorem witness_TxEnqEffect :
    (legal live.cfg = true ∧ live.halted = false ∧ live.scBusy = true ∧ live.txq.length ≠ live.cfg.txqCap ∧
      live.scEmit.testBit 0 = true ∧ relOf 0#8 = keyFrame live.cfg live.scFresh 0 ∧
      pressOf 0#8 ≠ keyFrame live.cfg live.scFresh 0) ∧
      legal State.reset.cfg = true ∧ State.reset.halted = false ∧ State.reset.scBusy = false := by decide

theorem witness_TxEnqEffect_bits :
    (∀ j, j < 0 → live.scEmit.testBit j = false) ∧
      ∀ j, (0x890).testBit j = (live.scEmit.testBit j && decide (j ≠ 0)) :=
  ⟨fun j h => absurd h (Nat.not_lt_zero j), fun j => testBit_clear 0x891 0 j (by decide)⟩

theorem witness_TxDeqEffect :
    (legal live.cfg = true ∧ live.halted = false ∧ live.txq = [pressOf 0#8] ∧ live.txHoldValid = false) ∧
      legal State.reset.cfg = true ∧ State.reset.halted = false ∧ State.reset.txq = [] := by decide

theorem witness_TxIssueEffect :
    let s := { live with txHoldValid := true, txHoldFrame := pressOf 3#8, mboxAvail := 1 }
    (legal s.cfg = true ∧ s.halted = false ∧ s.txHoldValid = true ∧ 0 < s.mboxAvail) ∧
      legal live.cfg = true ∧ live.halted = false ∧ live.txHoldValid = false := by decide

theorem witness_TxDoneEffect : legal live.cfg = true ∧ live.halted = false := by decide

theorem witness_TransmitKeepsOrder : completes [.scanEmit, .txDeq, .txIssue, .txDeq] live = true := by decide

theorem witness_InFlightIsOutstanding :
    legal live.cfg = true ∧ live.mboxAvail ≤ live.cfg.mboxN ∧
      outstanding [.txDeq, .txIssue, .txDone] live live.inFlight = some 0 ∧
      completes [.txDeq, .txIssue, .txDone] live = true := by decide

theorem witness_RxFrameEffect :
    ([0x50#8, 0x04#8, 0x05#8, 0#8, 0#8, 0#8, 0#8] : List Byte).length ≠ State.reset.cfg.frameBytes ∧
      (pressOf 5#8).data.length = State.reset.cfg.frameBytes ∧ legal State.reset.cfg = true ∧
      State.reset.halted = false ∧ 0x7FF ≠ State.reset.cfg.busId ∧ 0x123 = State.reset.cfg.busId ∧
      (List.replicate 35 (pressOf 0#8)).length ≠ State.reset.cfg.rxqCap ∧
      fullQueue.length = State.reset.cfg.rxqCap := by decide

/-- An own frame that may arrive, and one that may not. -/
theorem witness_RxFrameEffect_own :
    (pressOf 5#8).data.length = looped.cfg.frameBytes ∧ legal looped.cfg = true ∧ looped.halted = false ∧
      looped.cfg.loopback = true ∧ pressOf 5#8 ∈ looped.ownPending ∧ pressOf 6#8 ∉ looped.ownPending ∧
      State.reset.cfg.loopback = false := by decide

theorem witness_OwnFramesArriveOnce :
    let run : List Instr := [.txIssue, .rxFrame ⟨.own, 0x123⟩ (pressOf 3#8).data]
    let s := { looped with txHoldValid := true, txHoldFrame := pressOf 3#8 }
    (completes run s = true ∧ s.cfg.loopback = true ∧ collect ownArrivedAt run s = [pressOf 3#8]) ∧
      completes run { s with cfg := Config.default } = true ∧ Config.default.loopback = false := by decide

theorem witness_RxDeqEffect :
    let s := { State.reset with rxq := [pressOf 5#8] }
    (legal s.cfg = true ∧ s.halted = false ∧ s.rxq = [pressOf 5#8]) ∧ State.reset.rxq = [] := by decide

theorem witness_ReceiveKeepsOrder :
    completes [.rxFrame ⟨.peer, 0x123⟩ (pressOf 5#8).data, .rxDeq] { State.reset with rxq := [pressOf 1#8] } =
      true := by decide

theorem witness_ReceiveAccountsEveryFrame :
    ((runAll [.rxFrame ⟨.peer, 0x123⟩ (relOf 5#8).data] { State.reset with rxq := fullQueue }).map
      fun t => decide (t.rxDrop.toNat < 2 ^ 32 - 1)) = some true := by decide

/-- One frame for each clause: a Release, a Press of note 11, a Press of note 12, another kind. -/
theorem witness_MdStepEffect :
    legal State.reset.cfg = true ∧ State.reset.halted = false ∧ State.reset.rxq = [] ∧
      (relOf 0x63#8).data = 0x52#8 :: 4#8 :: 0x63#8 :: List.replicate 5 0#8 ∧ (0x0B#8 : Byte).toNat ≤ 11 ∧
      11 < (0x0C#8 : Byte).toNat ∧ (0x41#8 : Byte) ≠ 0x50#8 ∧ (0x41#8 : Byte) ≠ 0x52#8 := by decide

/-- A Press of note 11, one of note 12, a Release; another head, and none. -/
theorem witness_FrameKindEffect :
    let p := { State.reset with rxq := [pressOf 0x0B#8, relOf 0#8] }
    let q := { State.reset with rxq := [pressOf 0x0C#8] }
    let r := { State.reset with rxq := [relOf 0x63#8] }
    (legal p.cfg = true ∧ p.halted = false ∧ (0x0B#8 : Byte).toNat ≤ 11 ∧ p.rxq =
        ⟨0x123, 0x50#8 :: 0x04#8 :: 0x0B#8 :: 0#8 :: 0#8 :: 0#8 :: 0#8 :: [0#8]⟩ :: [relOf 0#8]) ∧
      (11 < (0x0C#8 : Byte).toNat ∧ q.rxq =
        ⟨0x123, 0x50#8 :: 0x04#8 :: 0x0C#8 :: 0#8 :: 0#8 :: 0#8 :: 0#8 :: [0#8]⟩ :: []) ∧
      r.rxq = ⟨0x123, 0x52#8 :: 0x04#8 :: 0x63#8 :: 0#8 :: 0#8 :: 0#8 :: 0#8 :: [0#8]⟩ :: [] ∧
      p.rxq.head? = some (pressOf 0x0B#8) ∧
      (pressOf 0x0B#8).data ≠ 0x50#8 :: 0x04#8 :: 0x0A#8 :: 0#8 :: 0#8 :: 0#8 :: 0#8 :: [0#8] ∧
      State.reset.rxq.head? = none := by decide

theorem witness_OctaveAndReservedIgnored :
    let f : Frame := ⟨0x123, [0x50#8, 0x04#8, 5#8, 0#8, 0#8, 0#8, 0#8, 0#8]⟩
    let g : Frame := ⟨0x123, [0x50#8, 0x07#8, 5#8, 0xAA#8, 0xBB#8, 0xCC#8, 0xDD#8, 0xEE#8]⟩
    let s := { State.reset with rxq := [f] }
    legal s.cfg = true ∧ s.halted = false ∧ s.rxq = [f] ∧
      completes [.mdStep] s = true ∧ completes [.mdStep] { s with rxq := [g] } = true := by decide

theorem witness_DisplayReadEffect : legal live.cfg = true ∧ live.halted = false := by decide

theorem witness_CommitOverwritesReceivedStep :
    let s := { inCycle 0xFFFFCFFF 0 0 with rxq := [pressOf 5#8] }
    legal s.cfg = true ∧ s.halted = false ∧ s.scBusy = true ∧ s.scEmit = 0 ∧ s.rxq ≠ [] := by decide

theorem witness_WriterTable :
    completes [.scanEmit] live = true ∧ completes [.qdT1 ⟨0, 0xFFFFDFFF⟩] State.reset = true := by decide

theorem witness_InterruptStepsAreTotal :
    legal live.cfg = true ∧ live.halted = false ∧ (pressOf 5#8).data.length = live.cfg.frameBytes := by decide

/-! ### A fair run, for the liveness statement -/

/-- One round of the agents' steps. -/
def round : List Instr :=
  [.scanCapture 0, .scanEmit, .scanCommit, .sampleTick, .txDeq, .txIssue, .txDone, .mdStep, .displayRead]

/-- The rounds one after another. -/
def fairEvent (n : Nat) : Instr := round.getD (n % 9) .displayRead

/-- The state after an operation; the state itself where it stops. -/
def follow (i : Instr) (s : State) : State :=
  match exec i s with
  | .next t => t
  | .fault _ => s
  | .refused _ => s

/-- The run of those rounds. -/
def fairState : Nat → State
  | 0 => live
  | n + 1 => follow (fairEvent n) (fairState n)

theorem fairEvent_wf (n : Nat) (c : Config) : (fairEvent n).wf c = true := by
  unfold fairEvent
  have h : n % 9 < 9 := Nat.mod_lt _ (by omega)
  generalize n % 9 = r at h
  interval_cases r <;> simp [round, Instr.wf]

theorem fairEvent_at (n k : Nat) (h : k < 9) : n ≤ 9 * n + k ∧ fairEvent (9 * n + k) = round.getD k .displayRead := by
  refine ⟨by omega, ?_⟩
  unfold fairEvent
  rw [Nat.mul_add_mod, Nat.mod_eq_of_lt h]

theorem witness_QueuedFramesAreEmitted_run : FairRun fairState fairEvent where
  steps n := by
    obtain ⟨t, ht⟩ := exec_answers (fairState n) (fairEvent n) (fairEvent_wf n _)
    rw [ht]
    simp [fairState, follow, ht]
  capture n _ := ⟨_, (fairEvent_at n 0 (by omega)).1, by rw [(fairEvent_at n 0 (by omega)).2]; rfl⟩
  emit n _ := ⟨_, (fairEvent_at n 1 (by omega)).1, by rw [(fairEvent_at n 1 (by omega)).2]; rfl⟩
  commit n _ := ⟨_, (fairEvent_at n 2 (by omega)).1, by rw [(fairEvent_at n 2 (by omega)).2]; rfl⟩
  sample n _ := ⟨_, (fairEvent_at n 3 (by omega)).1, by rw [(fairEvent_at n 3 (by omega)).2]; rfl⟩
  txDeq n _ := ⟨_, (fairEvent_at n 4 (by omega)).1, by rw [(fairEvent_at n 4 (by omega)).2]; rfl⟩
  txIssue n _ := ⟨_, (fairEvent_at n 5 (by omega)).1, by rw [(fairEvent_at n 5 (by omega)).2]; rfl⟩
  mdStep n _ := ⟨_, (fairEvent_at n 7 (by omega)).1, by rw [(fairEvent_at n 7 (by omega)).2]; rfl⟩
  display n _ := ⟨_, (fairEvent_at n 8 (by omega)).1, by rw [(fairEvent_at n 8 (by omega)).2]; rfl⟩
  doneDuty n _ := ⟨_, (fairEvent_at n 6 (by omega)).1, by rw [(fairEvent_at n 6 (by omega)).2]; rfl⟩

theorem witness_QueuedFramesAreEmitted_start :
    legal (fairState 0).cfg = true ∧ (fairState 0).halted = false ∧ (fairState 0).txStream = [pressOf 0#8] := by decide

end Sys2Proof.Tests
end

/-! PROOFS. The statements of 10_state.md: the state right after reset (R48, R410), and the writer table (R54). -/

namespace Sys2Proof.Machine

/-! ### Reset (R48, R410) -/

section Reset

variable (c : Config) (u : Unspecified)

theorem State.mem_resetWith_knobs {n : Knob} (h : n ∈ (State.resetWith c u).knobs) : n = Knob.reset :=
  List.eq_of_mem_replicate h

/-- The two snapshot registers are `ALL_RELEASED` at reset, every bit of the width at the released level (R14). -/
theorem State.resetWith_snapshot {v : Nat}
    (h : v = (State.resetWith c u).scPrev ∨ v = (State.resetWith c u).ssInputs) :
    v < 2 ^ c.snapW ∧ ∀ i, i < c.snapW → v.testBit i = c.activeLow := by
  have hv : v = allReleased c := h.elim id id
  subst hv
  exact ⟨allReleased_lt c, fun i hi => by simp [testBit_allReleased, hi, releasedLevel]⟩

variable {c}

/-- Reset raises nothing under a legal configuration but InitFailure, exactly without `INIT_OK` (R370 codes 1, 5). -/
theorem State.resetWith_raised (hl : legal c = true) :
    (State.resetWith c u).raised = if c.initOk then [] else [.initFailure] := by
  simp [State.resetWith, hl]

/-- With `INIT_OK` the block is not halted, so the steps an event alone enables are enabled. -/
theorem State.resetWith_eventEnabled (hi : c.initOk = true) : (State.resetWith c u).eventEnabled = true := by
  simp [State.eventEnabled, State.resetWith, hi]

/-- The scanner is idle at reset, so a capture can begin. -/
theorem State.resetWith_captureEnabled (hi : c.initOk = true) : (State.resetWith c u).captureEnabled = true := by
  simp [State.captureEnabled, State.resetWith, hi]

variable (c)

/-- The scanner is idle at reset, so no cycle goes on, whatever the unspecified `sc_emit` holds. -/
theorem State.resetWith_cycle_disabled :
    (State.resetWith c u).emitEnabled = false ∧ (State.resetWith c u).commitEnabled = false := by
  simp [State.emitEnabled, State.commitEnabled, State.resetWith]

/-- Both FIFOs and the holding register are empty at reset, so nothing moves along the two paths. -/
theorem State.resetWith_paths_disabled :
    (State.resetWith c u).txDeqEnabled = false ∧ (State.resetWith c u).txIssueEnabled = false ∧
      (State.resetWith c u).rxDeqEnabled = false := by
  simp [State.txDeqEnabled, State.txIssueEnabled, State.rxDeqEnabled, State.txEmpty, State.rxEmpty, empty,
    State.resetWith]

end Reset

/-- Settles O16: the elements are read off `State.resetWith`, and each step's enabling is one lemma above. -/
theorem resetStateAndEnabledSteps : Obligations.ResetStateAndEnabledSteps := by
  intro c u hl s
  have hraised : s.raised = if c.initOk then [] else [.initFailure] := State.resetWith_raised u hl
  refine ⟨⟨List.length_replicate, fun n hn => ?_⟩, fun v => State.resetWith_snapshot c u,
    rfl, rfl, rfl, rfl, rfl, rfl, rfl, rfl, rfl, rfl, ?_, rfl, ?_, ?_, fun hi => ?_⟩
  · obtain rfl := State.mem_resetWith_knobs c u hn
    exact ⟨rfl, rfl, rfl⟩
  · simp [s, State.resetWith, hl]
  · intro hi; simp [hraised, hi]
  · intro hi; simp [hraised, hi]
  · have hevent : s.eventEnabled = true := State.resetWith_eventEnabled u hi
    obtain ⟨hemit, hcommit⟩ := State.resetWith_cycle_disabled c u
    obtain ⟨htxDeq, htxIssue, hrxDeq⟩ := State.resetWith_paths_disabled c u
    have hrx (id : Nat) (data : List Byte) : enabled (.rxFrame ⟨.peer, id⟩ data) s = true := by
      simp [enabled, State.rxEnabled, hevent]
    exact ⟨fun _ => State.resetWith_captureEnabled u hi, hevent, hrx, hevent, hevent, htxDeq, hrxDeq, hemit,
      hcommit, htxIssue⟩

/-! ### What a step can write: the writer table read by writer (R54) -/

/-- Everything a step of an operation can make of a state, one constructor a writer: the elements it names are the ones
that can change. A row with no event code is the step of the event that performs it (log entry 8), so the capture, the
emit and the decoding are named by that event's step and not by the operation. -/
inductive Writes : Instr → State → State → Prop
  | hold (i : Instr) (s : State) : Writes i s s
  | refuse (i : Instr) (s : State) : Writes i s s.markRefused
  | capture {i : Instr} {s : State} (m : Nat) (ks : List Knob) (cs : List Condition) (f v e : Nat)
      (hx : exec (.scanCapture m) s = .next (State.beginCycle { s with knobs := ks, raised := cs } f v e)) :
      Writes i s (State.beginCycle { s with knobs := ks, raised := cs } f v e)
  | emit {i : Instr} {s : State} (f : Frame) (e : Nat)
      (hx : exec .scanEmit s = .next ((s.enqueueTx f).setEmit e)) : Writes i s ((s.enqueueTx f).setEmit e)
  | commit (s : State) : Writes .scanCommit s s.commit
  | sample (s : State) : Writes .sampleTick s s.sample
  | txDeq {s : State} {f : Frame} {q : List Frame} (hq : s.txq = f :: q) :
      Writes .txDeq s ((s.setTxq q).setHold f)
  | txIssue {s : State} (hm : s.mboxAvail ≠ 0) : Writes .txIssue s s.issue
  | txDone (s : State) : Writes .txDone s s.complete
  | rxFilter {s : State} (a : Arrival) (data : List Byte) (p : List Frame) :
      Writes (.rxFrame a data) s { s with ownPending := p }
  | rxPush {s : State} (a : Arrival) (data : List Byte) (p : List Frame) (f : Frame) :
      Writes (.rxFrame a data) s { s with ownPending := p, rxq := s.rxq ++ [f] }
  | rxDrop {s : State} (a : Arrival) (data : List Byte) (p : List Frame) (n : BitVec 32) (cs : List Condition) :
      Writes (.rxFrame a data) s { s with ownPending := p, rxDrop := n, raised := cs }
  | decode {i : Instr} {s : State} {f : Frame} {q : List Frame} (v : Nat)
      (ha : i.agent = some .messageDecoder) (hq : s.rxq = f :: q)
      (hx : exec .mdStep s = .next ((((s.setRxq q).emitRx f).storeWriteStep v).setCache f)) :
      Writes i s ((((s.setRxq q).emitRx f).storeWriteStep v).setCache f)
  | ignore {i : Instr} {s : State} {f : Frame} {q : List Frame}
      (ha : i.agent = some .messageDecoder) (hq : s.rxq = f :: q) :
      Writes i s ((((s.setRxq q).emitRx f).raise .decodeIgnored).setCache f)
  | rxDeq {s : State} {f : Frame} {q : List Frame} (hq : s.rxq = f :: q) :
      Writes .rxDeq s ((s.setRxq q).emitRx f)
  | display (s : State) : Writes .displayRead s s.display

theorem exists_cons_of_empty_eq_false {q : List Frame} (h : empty q = false) : ∃ f r, q = f :: r := by
  cases q with
  | nil => cases h
  | cons f r => exact ⟨f, r, rfl⟩

theorem State.txq_cons_of_txDeqEnabled {s : State} (h : s.txDeqEnabled = true) : ∃ f q, s.txq = f :: q := by
  simp only [State.txDeqEnabled, State.txEmpty, Bool.and_eq_true, Bool.not_eq_true'] at h
  exact exists_cons_of_empty_eq_false h.2

theorem State.rxq_cons_of_rxDeqEnabled {s : State} (h : s.rxDeqEnabled = true) : ∃ f q, s.rxq = f :: q := by
  simp only [State.rxDeqEnabled, State.rxEmpty, Bool.and_eq_true, Bool.not_eq_true'] at h
  exact exists_cons_of_empty_eq_false h.2

theorem State.mboxAvail_ne_zero_of_txIssueEnabled {s : State} (h : s.txIssueEnabled = true) : s.mboxAvail ≠ 0 := by
  simp only [State.txIssueEnabled, State.mboxNone, Bool.and_eq_true, Bool.not_eq_true', beq_eq_false_iff_ne] at h
  exact h.2

/-- The capture's decoder updates touch the knobs and the record of conditions alone (R140, R143). -/
theorem Writes.of_capture (i : Instr) {s : State} {m : Nat} (hx : exec (.scanCapture m) s = .next (s.capture m)) :
    Writes i s (s.capture m) := by
  obtain ⟨ks, hks, -⟩ := s.stepKnobs_spec (assemble s.cfg m)
  simp only [State.capture, hks] at hx ⊢
  exact .capture m ks _ _ _ _ hx

theorem Writes.of_emit (i : Instr) {s : State} (hx : exec .scanEmit s = .next s.emit) : Writes i s s.emit := by
  rcases s.emit_cases with ⟨-, -, he⟩ | ⟨k, -, -, -, he⟩
  · rw [he]; exact .hold i s
  · rw [he] at hx ⊢; exact .emit _ _ hx

theorem Writes.of_arrive (a : Arrival) (data : List Byte) (s : State) (f : Frame) :
    Writes (.rxFrame a data) s (s.arrive a.origin f) := by
  obtain ⟨p, -, ⟨-, he⟩ | ⟨-, -, he⟩ | ⟨-, -, he⟩⟩ := s.arrive_cases a.origin f
  · rw [he]; exact .rxFilter a data p
  · rw [he]; exact .rxPush a data p f
  · rw [he]; exact .rxDrop a data p _ _

theorem Writes.of_decodeNext {i : Instr} {s : State} (ha : i.agent = some .messageDecoder)
    (he : s.rxDeqEnabled = true) (hx : exec .mdStep s = .next s.decodeNext) : Writes i s s.decodeNext := by
  obtain ⟨f, q, hq⟩ := State.rxq_cons_of_rxDeqEnabled he
  have hnext : s.decodeNext = ((s.setRxq q).emitRx f).decodeFrame f := by
    simp [State.decodeNext, hq, head, State.dequeueRx_cons hq]
  rcases ((s.setRxq q).emitRx f).decodeFrame_cases f with ⟨v, -, hd⟩ | ⟨-, hd⟩
  · rw [hnext, hd] at hx ⊢; exact .decode v ha hq hx
  · rw [hnext, hd]; exact .ignore ha hq

/-- Every completing operation writes as one of the writers: as the event whose step it is. -/
theorem effect_writes {i : Instr} {s : State} (he : enabled (rowEvent i) s = true)
    (hx : exec (rowEvent i) s = .next (effect i s)) : Writes i s (effect i s) := by
  cases i with
  | scanEmit | txEnq _ => exact .of_emit _ hx
  | scanCommit => exact .commit s
  | sampleTick => exact .sample s
  | txDeq =>
    obtain ⟨f, q, hq⟩ := State.txq_cons_of_txDeqEnabled he
    simp only [effect, State.dequeueTx_cons hq]
    exact .txDeq hq
  | txIssue => exact .txIssue (State.mboxAvail_ne_zero_of_txIssueEnabled he)
  | txDone => exact .txDone s
  | rxFrame a data =>
    simp only [effect]
    split
    · exact .of_arrive a data s _
    · exact .refuse _ s
  | mdStep | framePress _ _ _ _ _ _ _ | frameRelease _ _ _ _ _ _ _ => exact .of_decodeNext rfl he hx
  | displayRead => exact .display s
  | reservedA | reservedB | reservedC | reservedD | reservedE | reservedF => exact .refuse _ s
  | rxDeq =>
    obtain ⟨f, q, hq⟩ := State.rxq_cons_of_rxDeqEnabled he
    simp only [effect, State.dequeueRx_cons hq]
    exact .rxDeq hq
  | scanCapture _ | qdStep _ _ | qdT0 _ | qdT1 _ | qdT2 _ | qdT3 _ | qdT4 _ | qdT5 _ | qdT6 _ | qdT7 _ | qdT8 _
  | qdT9 _ | qdTA _ | qdTB _ | qdTC _ | qdTD _ | qdTE _ | qdTF _ => exact .of_capture _ hx

/-- Whatever an operation answers, its step is one of the writers'. -/
theorem exec_writes {i : Instr} {s t : State} (h : exec i s = .next t) : Writes i s t := by
  rcases exec_cases h with ⟨-, he, rfl⟩ | ⟨-, -, rfl⟩ | ⟨-, rfl⟩
  · rcases exec_rowEvent h with heq | hx
    · rw [heq]; exact .hold i s
    · exact effect_writes (enabled_rowEvent he) hx
  · exact .hold i t
  · exact .refuse i s

/-! ### The writer table read by element: each row of R54

Where the step is another writer's the element is as it was, by computation, against `hne`. -/

section WriterRows

variable {i : Instr} {s t : State}

theorem Writes.knobs_writer (h : Writes i s t) (hne : t.knobs ≠ s.knobs) :
    ∃ m, exec (.scanCapture m) s = .next t := by
  cases h with
  | capture m _ _ _ _ _ hx => exact ⟨m, hx⟩
  | _ => exact absurd rfl hne

theorem Writes.sc_writer (h : Writes i s t) (hne : ¬ sameSc s t) :
    (∃ m, exec (.scanCapture m) s = .next t) ∨ exec .scanEmit s = .next t ∨ i = .scanCommit := by
  cases h with
  | capture m _ _ _ _ _ hx => exact .inl ⟨m, hx⟩
  | emit _ _ hx => exact .inr (.inl hx)
  | commit => exact .inr (.inr rfl)
  | _ => exact absurd ⟨rfl, rfl, rfl, rfl, rfl⟩ hne

theorem Writes.ssInputs_writer (h : Writes i s t) (hne : t.ssInputs ≠ s.ssInputs) : i = .scanCommit := by
  cases h with
  | commit => rfl
  | _ => exact absurd rfl hne

theorem Writes.ssStep_writer (h : Writes i s t) (hne : t.ssStep ≠ s.ssStep) :
    i = .scanCommit ∨ exec .mdStep s = .next t := by
  cases h with
  | commit => exact .inl rfl
  | decode _ _ _ hx => exact .inr hx
  | _ => exact absurd rfl hne

theorem Writes.syn_writer (h : Writes i s t) (hne : ¬ sameSyn s t) : i = .sampleTick := by
  cases h with
  | sample => rfl
  | _ => exact absurd ⟨rfl, rfl⟩ hne

theorem Writes.txq_writer (h : Writes i s t) (hne : t.txq ≠ s.txq) :
    (exec .scanEmit s = .next t ∧ ∃ f, t.txq = s.txq ++ [f]) ∨ (i = .txDeq ∧ ∃ f, s.txq = f :: t.txq) := by
  cases h with
  | emit f _ hx => exact .inl ⟨hx, f, rfl⟩
  | txDeq hq => exact .inr ⟨rfl, _, hq⟩
  | _ => exact absurd rfl hne

theorem Writes.txHold_writer (h : Writes i s t)
    (hne : t.txHoldValid ≠ s.txHoldValid ∨ t.txHoldFrame ≠ s.txHoldFrame) : i = .txDeq ∨ i = .txIssue := by
  cases h with
  | txDeq => exact .inl rfl
  | txIssue => exact .inr rfl
  | _ => exact hne.elim (absurd rfl) (absurd rfl)

theorem Writes.mboxAvail_writer (h : Writes i s t) (hne : t.mboxAvail ≠ s.mboxAvail) :
    (i = .txIssue ∧ t.mboxAvail + 1 = s.mboxAvail) ∨
      (i = .txDone ∧ t.mboxAvail = min (s.mboxAvail + 1) s.cfg.mboxN) := by
  cases h with
  | txIssue hm => exact .inl ⟨rfl, Nat.succ_pred_eq_of_ne_zero hm⟩
  | txDone => exact .inr ⟨rfl, rfl⟩
  | _ => exact absurd rfl hne

theorem Writes.rxq_writer (h : Writes i s t) (hne : t.rxq ≠ s.rxq) :
    ((∃ a data, i = .rxFrame a data) ∧ ∃ f, t.rxq = s.rxq ++ [f]) ∨
      (i.agent = some .messageDecoder ∧ ∃ f, s.rxq = f :: t.rxq) := by
  cases h with
  | rxPush a data _ f => exact .inl ⟨⟨a, data, rfl⟩, f, rfl⟩
  | decode _ ha hq => exact .inr ⟨ha, _, hq⟩
  | ignore ha hq => exact .inr ⟨ha, _, hq⟩
  | rxDeq hq => exact .inr ⟨rfl, _, hq⟩
  | _ => exact absurd rfl hne

theorem Writes.rxDrop_writer (h : Writes i s t) (hne : t.rxDrop ≠ s.rxDrop) : ∃ a data, i = .rxFrame a data := by
  cases h with
  | rxDrop a data => exact ⟨a, data, rfl⟩
  | _ => exact absurd rfl hne

theorem Writes.halted_eq (h : Writes i s t) : t.halted = s.halted := by cases h <;> rfl

end WriterRows

/-- Settles O55: the step is one of the writers' (`exec_writes`), and each row of the table holds of those. -/
theorem writerTable : Obligations.WriterTable := by
  intro i s t h
  have hw : Writes i s t := exec_writes h
  exact ⟨hw.knobs_writer, hw.sc_writer, hw.ssInputs_writer, hw.ssStep_writer, hw.syn_writer, hw.txq_writer,
    hw.txHold_writer, hw.mboxAvail_writer, hw.rxq_writer, hw.rxDrop_writer, hw.halted_eq⟩

end Sys2Proof.Machine

/-! PROOFS. The statements of 20_memory.md: what DISPLAY_READ returns, and what it leaves as it was (R74, R345). -/

namespace Sys2Proof.Machine

/-- While the block is not halted, the steps an event alone enables are enabled. -/
theorem State.eventEnabled_of_not_halted {s : State} (hh : s.halted = false) : s.eventEnabled = true := by
  simp [State.eventEnabled, hh]

/-- A display read takes both halves of the store pair from the one state it finds (R74), and its whole effect is to
append that view to the record (R345). -/
theorem State.display_eq (s : State) :
    s.display = { s with displayOut := s.displayOut ++ [⟨s.ssInputs, s.ssStep, s.mdCache⟩] } := rfl

/-- Settles O53: the read completes with `State.display`, whose view is the store pair and the cached frame. -/
theorem displayReadEffect : Obligations.DisplayReadEffect := by
  intro s hl hh
  have hen : enabled .displayRead s = true := State.eventEnabled_of_not_halted hh
  have hx : exec .displayRead s = .next s.display := exec_enabled rfl hl hen
  exact ⟨⟨s.ssInputs, s.ssStep, s.mdCache⟩, rfl, rfl, hx.trans (congrArg _ s.display_eq)⟩

end Sys2Proof.Machine

/-! PROOFS. The statements of 30_encoding.md: what makes a step table legal (R76, R116). -/

namespace Sys2Proof.Machine

/-- The 12th power of an entry times the twelfth root of 2 of R116 (c). -/
theorem mul_twelfthRoot_pow (a : Nat) : ((a : ℝ) * (2 : ℝ) ^ ((1 : ℝ) / 12)) ^ 12 = (2 * a ^ 12 : Nat) := by
  have hroot : ((2 : ℝ) ^ ((1 : ℝ) / 12)) ^ 12 = 2 := by
    simpa using Real.rpow_inv_natCast_pow (x := 2) (n := 12) (by norm_num) (by norm_num)
  rw [mul_pow, hroot, mul_comm]
  norm_cast

theorem pow_le_two_mul_pow_iff (x a : Nat) :
    x ^ 12 ≤ 2 * a ^ 12 ↔ (x : ℝ) ≤ a * (2 : ℝ) ^ ((1 : ℝ) / 12) := by
  rw [← Nat.cast_le (α := ℝ), ← mul_twelfthRoot_pow, Nat.cast_pow]
  exact pow_le_pow_iff_left₀ (by positivity) (by positivity) (by norm_num)

theorem two_mul_pow_le_pow_iff (x a : Nat) :
    2 * a ^ 12 ≤ x ^ 12 ↔ (a : ℝ) * (2 : ℝ) ^ ((1 : ℝ) / 12) ≤ x := by
  rw [← Nat.cast_le (α := ℝ), ← mul_twelfthRoot_pow, Nat.cast_pow]
  exact pow_le_pow_iff_left₀ (by positivity) (by positivity) (by norm_num)

/-- The integer check of two neighbours is R116 (b) and (c): as `b > a`, the predecessor `b - 1` is the real difference, so
the two bounds on 12th powers are the two sides of the absolute value. -/
theorem semitone_iff {a b : Nat} :
    semitone a b = true ↔ a < b ∧ |(b : ℝ) - a * (2 : ℝ) ^ ((1 : ℝ) / 12)| ≤ 1 := by
  simp only [semitone, Bool.and_eq_true, decide_eq_true_eq, and_assoc]
  refine and_congr_right fun hab => ?_
  have hpred : ((b - 1 : Nat) : ℝ) = b - 1 := Nat.cast_pred (Nat.zero_lt_of_lt hab)
  rw [pow_le_two_mul_pow_iff, two_mul_pow_le_pow_iff, hpred, Nat.cast_succ, abs_sub_le_iff]
  exact and_congr sub_le_comm sub_le_iff_le_add'.symm

/-- The recursion over a table is a chain of neighbours. -/
theorem semitones_iff_isChain (l : List Nat) : semitones l = true ↔ l.IsChain (fun a b => semitone a b = true) := by
  induction l using semitones.induct with
  | case1 => simp [semitones]
  | case2 a => simp [semitones]
  | case3 a b r ih => simp [semitones, ih]

/-- The neighbours of a table of 12 entries are those at `n` and `n + 1` for `n < 11`. -/
theorem semitones_iff_forall_getD {l : List Nat} (hl : l.length = 12) :
    semitones l = true ↔ ∀ n, n < 11 → semitone (l.getD n 0) (l.getD (n + 1) 0) = true := by
  rw [semitones_iff_isChain, List.isChain_iff_getElem]
  refine forall_congr' fun n => ?_
  constructor
  · intro h hn
    rw [List.getD_eq_getElem _ _ (by omega), List.getD_eq_getElem _ _ (by omega)]
    exact h (by omega)
  · intro h hn
    rw [← List.getD_eq_getElem l 0, ← List.getD_eq_getElem l 0]
    exact h (by omega)

/-- A check of every entry is one of every index. -/
theorem all_iff_forall_getD (l : List Nat) (p : Nat → Bool) :
    l.all p = true ↔ ∀ n, n < l.length → p (l.getD n 0) = true := by
  rw [List.all_eq_true, List.forall_mem_iff_getElem]
  refine forall₂_congr fun n hn => ?_
  rw [List.getD_eq_getElem l 0 hn]

/-- Settles O14: the table's check is one of each entry (`all_iff_forall_getD`) and of each pair of neighbours
(`semitones_iff_forall_getD`), and a pair's check is R116 (b) and (c) (`semitone_iff`). -/
theorem legalStepTableIsSemitones : Obligations.LegalStepTableIsSemitones := by
  intro c
  simp only [stepTableLegal, Bool.and_eq_true, beq_iff_eq, and_assoc]
  refine and_congr_right fun hl => and_congr ?_ ?_
  · simp only [all_iff_forall_getD, hl, Bool.and_eq_true, decide_eq_true_eq]
  · simp only [semitones_iff_forall_getD hl, semitone_iff, forall_and]

end Sys2Proof.Machine

/-! PROOFS. The statements of 41_knob_decoder.md: one decoder update by class (R143 to R148), its saturation (R144), and
where the updates run (R140). -/

namespace Sys2Proof.Machine

/-! ### One update of one knob (R143) -/

/-- The transition index `{p, c}` of R101 as a number, so that the class an update selects is `transClass`. -/
theorem transIndex_toNat (p code : PhaseCode) : (transIndex p code).toNat = 4 * p.toNat + code.toNat := by
  rw [transIndex, BitVec.toNat_append, ← Nat.shiftLeft_add_eq_or_of_lt code.isLt, Nat.shiftLeft_eq, mul_comm]

/-- The decoder update of R143, said with the class of the transition. -/
theorem Knob.step_eq (c : Config) (n : Knob) (code : PhaseCode) :
    n.step c code =
      ⟨code, classDir n.dir (transClass c n.prev code),
        constrainRotation c (n.rot + classDelta c n.dir (transClass c n.prev code))⟩ := by
  simp only [Knob.step, transClass, transIndex_toNat]

section Class

variable (c : Config) (d : Dir)

@[simp] theorem classDelta_hold : classDelta c d .hold = 0 := rfl
@[simp] theorem classDelta_inc : classDelta c d .inc = 1 := rfl
@[simp] theorem classDelta_dec : classDelta c d .dec = -1 := rfl
@[simp] theorem classDelta_skip_plus : classDelta c .plus .skip = c.qdSkipWeight := mul_one _
@[simp] theorem classDelta_skip_minus : classDelta c .minus .skip = -(c.qdSkipWeight : Int) := mul_neg_one _

variable {c} {r : Nat}

/-- A sum that does not fall is bounded by ROT_MAX alone (R146, R148). -/
theorem constrainRotation_add (w : Nat) : constrainRotation c ((r : Int) + w) = min (r + w) c.rotMax := by
  have hclamp := constrainRotation_cases c (r + w)
  omega

/-- From a rotation in range a sum that does not grow is bounded by 0 alone (R147, R148). -/
theorem constrainRotation_sub (hr : r ≤ c.rotMax) (w : Nat) : constrainRotation c ((r : Int) + -w) = r - w := by
  have hclamp := constrainRotation_cases c (r + -w)
  omega

theorem constrainRotation_self (hr : r ≤ c.rotMax) : constrainRotation c r = r := by
  simpa [hr] using constrainRotation_add (c := c) (r := r) 0

end Class

/-- One update of a knob whose rotation is in range does what R145 to R148 say of the transition's class. -/
theorem Knob.step_effect {c : Config} {n : Knob} (hr : n.rot ≤ c.rotMax) (code : PhaseCode) :
    knobEffect c n code (n.step c code) := by
  refine ⟨rfl, ?_⟩
  rw [Knob.step_eq]
  cases transClass c n.prev code with
  | hold => exact ⟨rfl, by simp [constrainRotation_self hr]⟩
  | inc => exact ⟨rfl, constrainRotation_add 1⟩
  | dec => exact ⟨rfl, constrainRotation_sub hr 1⟩
  | skip =>
    refine ⟨rfl, ?_⟩
    cases n.dir with
    | plus => simp [constrainRotation_add]
    | minus => simp [constrainRotation_sub hr]

/-- QD_STEP selects the class of the transition from the knob's last code (R101, R143). -/
theorem State.stepClass_eq (s : State) (k : Nat) (code : PhaseCode) :
    s.stepClass k code = transClass s.cfg (s.knob k).prev code := by
  simp only [State.stepClass, transClass, transIndex_toNat]

/-- Settles O18: QD_STEP writes its knob and the condition alone (`State.stepKnob_eq`), and the knob's new value is the
class's (`Knob.step_effect`). -/
theorem qdStepByClass : Obligations.QdStepByClass := by
  intro s k code n hn hr
  refine ⟨n.step s.cfg code, Knob.step_effect hr code, ?_⟩
  rw [State.stepKnob_eq, State.stepClass_eq, State.knob_of_getElem hn]
  rfl

/-! ### The updates of a capture (R140) -/

@[simp] theorem State.stepKnob_cfg (s : State) (k : Nat) (code : PhaseCode) : (s.stepKnob k code).cfg = s.cfg := by
  rw [State.stepKnob_eq]

/-- No update changes the configuration, so every phase code of a run of updates is read with the first state's. -/
theorem foldl_stepKnob_cfg (f : Nat) {c : Config} (ks : List Nat) {s : State} (hc : s.cfg = c) :
    ks.foldl (fun v k => v.stepKnob k (phaseCode v.cfg f k)) s =
      ks.foldl (fun v k => v.stepKnob k (phaseCode c f k)) s := by
  induction ks generalizing s with
  | nil => rfl
  | cons k ks ih =>
    simp only [List.foldl_cons, hc]
    exact ih ((s.stepKnob_cfg k _).trans hc)

/-- An idle scanner takes a capture (R180, R181). -/
theorem exec_scanCapture_idle {s : State} (m : Nat) (hl : legal s.cfg = true) (hh : s.halted = false)
    (hb : s.scBusy = false) : exec (.scanCapture m) s = .next (s.capture m) :=
  State.gate_run_enabled _ hl (by simp [State.captureEnabled, hh, hb])

section Capture

variable (s : State) (m : Nat)

theorem State.capture_scFresh : (s.capture m).scFresh = assemble s.cfg m := rfl
@[simp] theorem State.capture_knobs : (s.capture m).knobs = (s.stepKnobs (assemble s.cfg m)).knobs := rfl
@[simp] theorem State.capture_raised : (s.capture m).raised = (s.stepKnobs (assemble s.cfg m)).raised := rfl

variable {s}

/-- A capture makes of each knob its own one update, with the knob's code in the fresh snapshot (R140). -/
theorem State.capture_knob {k : Nat} {n : Knob} (hk : k < s.cfg.nKnobs) (hn : s.knobs[k]? = some n) :
    (s.capture m).knobs[k]? = some (n.step s.cfg (phaseCode s.cfg (s.capture m).scFresh k)) := by
  obtain ⟨ks, hks, -, hget⟩ := s.stepKnobs_spec (assemble s.cfg m)
  simp [State.capture_scFresh, hks, hget, hk, hn]

end Capture

/-- An operation that is held or refused leaves the decoder elements, so one that changes them is enabled. -/
theorem enabled_of_knobs_ne {i : Instr} {s t : State} (h : exec i s = .next t) (hne : t.knobs ≠ s.knobs) :
    enabled i s = true := by
  rcases exec_cases h with ⟨-, he, -⟩ | ⟨-, -, rfl⟩ | ⟨-, rfl⟩
  · exact he
  · exact absurd rfl hne
  · exact absurd s.markRefused_knobs hne

/-- Settles O19: a capture's decoder elements and conditions are those of `State.stepKnobs`, the fold over the knobs
(`foldl_stepKnob_cfg`); a step that changes a decoder element is a capture's (`Writes.knobs_writer`), an enabled one. -/
theorem knobsStepOnlyInCapture : Obligations.KnobsStepOnlyInCapture := by
  constructor
  · intro s m hl hh hb
    exact ⟨s.capture m, s.stepKnobs (assemble s.cfg m), exec_scanCapture_idle m hl hh hb,
      foldl_stepKnob_cfg _ _ rfl, s.capture_knobs m, s.capture_raised m⟩
  · intro i s t h hne
    obtain ⟨m, hx⟩ := (exec_writes h).knobs_writer hne
    exact ⟨m, enabled_of_knobs_ne hx hne, hx⟩

/-! ### Saturation (R144) -/

/-- Settles O22: the knob's rotation after a capture is the sum of R143 clamped to the range (`State.capture_knob`,
`Knob.step_eq`), and the clamp has the three cases of the statement (`constrainRotation_cases`). -/
theorem rotationSaturates : Obligations.RotationSaturates := by
  intro s m k n hl hh hb hk hn
  refine ⟨s.capture m, _, exec_scanCapture_idle m hl hh hb, State.capture_knob m hk hn,
    constrainRotation_le _ _, ?_⟩
  intro d
  have hd : d = classDelta s.cfg n.dir (transClass s.cfg n.prev (phaseCode s.cfg (s.capture m).scFresh k)) := by
    cases hc : transClass s.cfg n.prev (phaseCode s.cfg (s.capture m).scFresh k) with
    | hold | inc | dec => simp [d, hc]
    | skip => cases hdir : n.dir <;> simp [d, hc, hdir]
  rw [Knob.step_eq, ← hd]
  have hclamp := constrainRotation_cases s.cfg (n.rot + d)
  dsimp only
  omega

end Sys2Proof.Machine

/-! PROOFS. The statements of 42_key_scanner.md: what a capture, an emit and a commit write (R181 to R184, R188). -/

namespace Sys2Proof.Machine

/-! ### When a cycle goes on (R180) -/

theorem State.emitEnabled_iff {s : State} (hh : s.halted = false) :
    s.emitEnabled = true ↔ s.scBusy = true ∧ s.scEmit ≠ 0 ∧ s.txq.length ≠ s.cfg.txqCap := by
  simp [State.emitEnabled, State.emitPending, State.txFull, full, hh, and_assoc]

theorem State.commitEnabled_iff {s : State} (hh : s.halted = false) :
    s.commitEnabled = true ↔ s.scBusy = true ∧ s.scEmit = 0 := by
  simp [State.commitEnabled, State.emitPending, hh]

/-! ### Commit (R188) -/

/-- A commit publishes the pair, retains the snapshot and ends the cycle. -/
theorem State.commit_eq (s : State) :
    s.commit = { s with ssInputs := s.scFresh, ssStep := s.scStep, scPrev := s.scFresh, scBusy := false } := rfl

/-- Settles O27: with no frame pending the commit is enabled, and its effect is `State.commit_eq`. -/
theorem commitEffect : Obligations.CommitEffect := by
  intro s hl hh hb he
  have hen : enabled .scanCommit s = true := (State.commitEnabled_iff hh).mpr ⟨hb, he⟩
  have hx : exec .scanCommit s = .next s.commit := exec_enabled rfl hl hen
  exact hx.trans (congrArg _ s.commit_eq)

/-! ### Emit (R184) -/

/-- Settles O25: the key is the lowest pending one (`State.emit_cases`), and its bit alone is cleared
(`testBit_clear`). -/
theorem emitEffect : Obligations.EmitEffect := by
  intro s hl hh hb he hroom
  have hen : enabled .scanEmit s = true := (State.emitEnabled_iff hh).mpr ⟨hb, he, hroom⟩
  have hx : exec .scanEmit s = .next s.emit := exec_enabled rfl hl hen
  rcases s.emit_cases with ⟨hzero, -, -⟩ | ⟨i, hbit, hlow, -, hemit⟩
  · exact absurd hzero he
  · exact ⟨i, s.scEmit ^^^ 2 ^ i, hbit, hlow, fun j => testBit_clear _ i j hbit, hx.trans (congrArg _ hemit)⟩

/-! ### The selected step size (R183) -/

section Selection

variable {c : Config} {f : Nat}

/-- A legal step table has an entry for every note key (R9, R76). -/
theorem nNoteKeys_le_length_stepTable (hl : legal c = true) : c.nNoteKeys ≤ c.stepTable.length := by
  simp only [legal, geometryLegal, stepTableLegal, Bool.and_eq_true, decide_eq_true_eq, beq_iff_eq] at hl
  omega

/-- With no note key pressed the step size is 0. -/
theorem selectedStep_of_none_pressed (hnone : ∀ i, i < c.nNoteKeys → pressed c f i = false) :
    selectedStep c f = 0 := by
  rcases selectedKey_cases c f with ⟨hsel, -⟩ | ⟨k, -, hk, hp, -⟩
  · simp [selectedStep, hsel]
  · simp [hnone k hk] at hp

/-- The scan visits the highest pressed note key last. -/
theorem selectedKey_of_highest {k : Nat} (hk : k < c.nNoteKeys) (hp : pressed c f k = true)
    (hmax : ∀ i, k < i → i < c.nNoteKeys → pressed c f i = false) : selectedKey c f = some k := by
  rcases selectedKey_cases c f with ⟨-, hnone⟩ | ⟨j, hsel, hj, hpj, hmaxj⟩
  · simp [hnone k hk] at hp
  · rcases Nat.lt_trichotomy j k with hlt | rfl | hgt
    · simp [hmaxj k hlt hk] at hp
    · exact hsel
    · simp [hmax j hgt hj] at hpj

/-- The step size is the table's entry for the highest pressed note key. -/
theorem stepTable_of_highest (hl : legal c = true) {k : Nat} (hk : k < c.nNoteKeys) (hp : pressed c f k = true)
    (hmax : ∀ i, k < i → i < c.nNoteKeys → pressed c f i = false) :
    c.stepTable[k]? = some (selectedStep c f) := by
  have hentry : k < c.stepTable.length := hk.trans_le (nNoteKeys_le_length_stepTable hl)
  simp [selectedStep, selectedKey_of_highest hk hp hmax, stepLookup, hentry]

end Selection

/-! ### Capture (R181) -/

/-- A knob's phase code is read from the two snapshot bits its parameters name (R100). -/
theorem phaseCode_of_bits {c : Config} {k a b : Nat} (ha : c.qdABit[k]? = some a) (hb : c.qdBBit[k]? = some b)
    (f : Nat) : phaseCode c f k = BitVec.ofBool (f.testBit b) ++ BitVec.ofBool (f.testBit a) := by
  simp [phaseCode, ha, hb]

section Capture

variable (s : State) (m : Nat)

theorem State.capture_scStep : (s.capture m).scStep = selectedStep s.cfg (s.capture m).scFresh := rfl
theorem State.capture_scEmit : (s.capture m).scEmit = edgeMask s.cfg (s.capture m).scFresh s.scPrev := rfl

/-- A capture writes the knobs, the in-cycle registers and the record of conditions, and begins a cycle. -/
theorem State.capture_frame :
    s.capture m = { s with
      knobs := (s.capture m).knobs, scFresh := (s.capture m).scFresh, scStep := (s.capture m).scStep,
      scEmit := (s.capture m).scEmit, scBusy := true, raised := (s.capture m).raised } := by
  obtain ⟨ks, hks, -, -⟩ := s.stepKnobs_spec (assemble s.cfg m)
  simp only [State.capture, hks]
  rfl

theorem State.capture_length_knobs : (s.capture m).knobs.length = s.knobs.length := by
  obtain ⟨ks, hks, hlen, -⟩ := s.stepKnobs_spec (assemble s.cfg m)
  simpa [hks] using hlen

/-- QuadSkip on the class QD_STEP selects is QuadSkip on the transition from the knob's last code. -/
theorem State.skipRaised_knob (k : Nat) (code : PhaseCode) :
    skipRaised s.cfg (s.knob k).prev code = if s.stepClass k code = .skip then [.quadSkip] else [] := by
  rw [State.stepClass_eq, skipRaised]

/-- A capture raises each knob's QuadSkip in ascending order, from the code it last sampled and its new one. -/
theorem State.capture_raised_skips :
    (s.capture m).raised = s.raised ++ (List.range s.cfg.nKnobs).flatMap fun k =>
      skipRaised s.cfg (s.knob k).prev (phaseCode s.cfg (s.capture m).scFresh k) := by
  obtain ⟨ks, hks, -, -⟩ := s.stepKnobs_spec (assemble s.cfg m)
  simp only [State.capture_raised, State.capture_scFresh, hks, State.skipRaised_knob]

variable {s}

/-- A capture moves each knob by the class of the transition to the code its phase bits now show. -/
theorem State.capture_knobEffect {k a b : Nat} {n : Knob} (hlen : s.knobs.length = s.cfg.nKnobs)
    (hr : n.rot ≤ s.cfg.rotMax) (hn : s.knobs[k]? = some n) (ha : s.cfg.qdABit[k]? = some a)
    (hb : s.cfg.qdBBit[k]? = some b) :
    ∃ n', (s.capture m).knobs[k]? = some n' ∧
      knobEffect s.cfg n
        (BitVec.ofBool ((s.capture m).scFresh.testBit b) ++ BitVec.ofBool ((s.capture m).scFresh.testBit a)) n' := by
  have hk : k < s.cfg.nKnobs := hlen ▸ (List.getElem?_eq_some_iff.mp hn).1
  rw [← phaseCode_of_bits ha hb]
  exact ⟨_, State.capture_knob m hk hn, Knob.step_effect hr _⟩

end Capture

/-- Settles O24: the capture completes, it changes no other element (`State.capture_frame`), and each element it writes
is one lemma: the snapshot (`testBit_assemble`), the step size (`selectedStep_of_none_pressed`, `stepTable_of_highest`),
the edge mask (`testBit_edgeMask`), the knobs and the conditions (`State.capture_knobEffect`,
`State.capture_raised_skips`). -/
theorem captureEffect : Obligations.CaptureEffect := by
  intro s m hl hh hb hlen hrot
  refine ⟨s.capture m, exec_scanCapture_idle m hl hh hb, s.capture_frame m, assemble_lt _ _,
    testBit_assemble _ _, fun hnone => ?_, fun k hk hp hmax => ?_, edgeMask_lt _ _ _, fun i hi => ?_,
    s.capture_length_knobs m, fun k n a b hn ha hbit => ?_, s.capture_raised_skips m⟩
  · rw [State.capture_scStep]
    exact selectedStep_of_none_pressed hnone
  · rw [State.capture_scStep]
    exact stepTable_of_highest hl hk hp hmax
  · rw [State.capture_scEmit, testBit_edgeMask]
    simp [hi]
  · exact State.capture_knobEffect m hlen (hrot n (List.mem_of_getElem? hn)) hn ha hbit

end Sys2Proof.Machine

/-! PROOFS. The statements of 43_synth.md: the effect of SAMPLE_TICK (R230 to R232). -/

namespace Sys2Proof.Machine

/-- SAMPLE_TICK completes whenever the machine is not halted (R230, R234). -/
theorem exec_sampleTick {s : State} (hl : legal s.cfg = true) (hh : s.halted = false) :
    exec .sampleTick s = .next s.sample :=
  exec_enabled rfl hl (State.eventEnabled_of_not_halted hh)

/-- A tick writes the phase after the add and the sample of that phase at the volume knob's rotation. -/
theorem State.sample_eq (s : State) :
    s.sample = { s with
      synPhase := nextPhase s.cfg s.synPhase s.ssStep
      audioOut := sampleOf s.cfg (nextPhase s.cfg s.synPhase s.ssStep) (s.getRotation s.cfg.volKnob) } := rfl

theorem State.getRotation_of_getElem {s : State} {k : Nat} {n : Knob} (h : s.knobs[k]? = some n) :
    s.getRotation k = n.rot := congrArg Knob.rot (State.knob_of_getElem h)

/-- Dropping the low bits of a phase leaves its raw sample (R113). -/
theorem shiftRight_eq_rawSample (c : Config) (ph : Nat) : ph >>> (c.phaseW - c.sampleBits) = rawSample c ph :=
  Nat.shiftRight_eq_div_pow _ _

/-- The sample is the floor of the centered sample over `2^(MAX_VOLUME - rot)` (R10, R232). -/
theorem sampleOf_floor (c : Config) (ph rot : Nat) :
    (2 : Int) ^ (c.maxVolume - rot) * sampleOf c ph rot ≤ centered c ph ∧
      centered c ph < (2 : Int) ^ (c.maxVolume - rot) * (sampleOf c ph rot + 1) :=
  asr_floor (centered c ph) (volumeShift c rot)

/-- Settles O32: the tick completes (`exec_sampleTick`) with the effect `State.sample_eq`, and its sample at the volume
knob's rotation is the floor of the quotient (`sampleOf_floor`). -/
theorem sampleTickEffect : Obligations.SampleTickEffect := by
  intro s n hl hh hn
  refine ⟨sampleOf s.cfg (nextPhase s.cfg s.synPhase s.ssStep) n.rot, ?_, ?_⟩
  · rw [exec_sampleTick hl hh, State.sample_eq, State.getRotation_of_getElem hn]
    rfl
  · dsimp only
    rw [shiftRight_eq_rawSample]
    exact sampleOf_floor s.cfg _ n.rot

end Sys2Proof.Machine

/-! PROOFS. The statements of 44_bus_tx.md: what TX_DEQ and TX_DONE write (R274, R278), and where the frames of the
transmit path come from (R270, R271). -/

namespace Sys2Proof.Machine

/-! ### Taking a frame, and a completion (R274, R278) -/

theorem State.txDeqEnabled_iff {s : State} (hh : s.halted = false) :
    s.txDeqEnabled = true ↔ s.txHoldValid = false ∧ s.txq ≠ [] := by
  simp [State.txDeqEnabled, State.txEmpty, empty, hh]

/-- Settles O39: a free register and a queued frame are exactly TX_DEQ's enabling (`State.txDeqEnabled_iff`), its effect
is `State.dequeueTx_cons`, and elsewhere it holds. -/
theorem txDeqEffect : Obligations.TxDeqEffect := by
  intro s hl hh
  refine ⟨fun f q hq hv => ?_, fun hwait => ?_⟩
  · have hen : enabled .txDeq s = true := (State.txDeqEnabled_iff hh).mpr ⟨hv, by simp [hq]⟩
    have hx : exec .txDeq s = .next s.dequeueTx := exec_enabled rfl hl hen
    exact hx.trans (congrArg _ (State.dequeueTx_cons hq))
  · have hen : enabled .txDeq s = false := by
      refine Bool.eq_false_iff.mpr fun hen => ?_
      obtain ⟨hv, hq⟩ := (State.txDeqEnabled_iff hh).mp hen
      rcases hwait with hempty | hfull
      · exact hq hempty
      · simp [hv] at hfull
    exact exec_hold rfl hl hen

/-- A completion writes the mailbox counter alone. -/
theorem State.complete_eq (s : State) :
    s.complete = { s with mboxAvail := min (s.mboxAvail + 1) s.cfg.mboxN } := rfl

/-- Settles O41: the completion is enabled whenever the block is not halted, and its effect is `State.complete_eq`. -/
theorem txDoneEffect : Obligations.TxDoneEffect := by
  intro s hl hh
  have hx : exec .txDone s = .next s.complete := exec_enabled rfl hl (State.eventEnabled_of_not_halted hh)
  exact hx.trans (congrArg _ s.complete_eq)

/-! ### The transmit path: what each operation does to it (R39, R40, R53) -/

/-- `t` has the configuration and the transmit path of `s`: the FIFO, the holding register and the port `bus_tx`. -/
structure SameTxPath (s t : State) : Prop where
  cfg : t.cfg = s.cfg
  txq : t.txq = s.txq
  holdValid : t.txHoldValid = s.txHoldValid
  holdFrame : t.txHoldFrame = s.txHoldFrame
  busTx : t.busTx = s.busTx

section TxPath

variable (s : State)

theorem SameTxPath.refl : SameTxPath s s := ⟨rfl, rfl, rfl, rfl, rfl⟩

variable {s} in
theorem SameTxPath.trans {t u : State} (h : SameTxPath s t) (h' : SameTxPath t u) : SameTxPath s u :=
  ⟨h'.cfg.trans h.cfg, h'.txq.trans h.txq, h'.holdValid.trans h.holdValid, h'.holdFrame.trans h.holdFrame,
    h'.busTx.trans h.busTx⟩

theorem State.capture_sameTxPath (m : Nat) : SameTxPath s (s.capture m) := by
  rw [s.capture_frame m]
  exact ⟨rfl, rfl, rfl, rfl, rfl⟩

theorem State.arrive_sameTxPath (o : Origin) (f : Frame) : SameTxPath s (s.arrive o f) := by
  obtain ⟨p, -, ⟨-, he⟩ | ⟨-, -, he⟩ | ⟨-, -, he⟩⟩ := s.arrive_cases o f <;>
    (rw [he]; exact ⟨rfl, rfl, rfl, rfl, rfl⟩)

theorem State.dequeueRx_sameTxPath : SameTxPath s s.dequeueRx := by
  cases hq : s.rxq with
  | nil => simpa [State.dequeueRx, hq, head] using SameTxPath.refl s
  | cons f q =>
    rw [State.dequeueRx_cons hq]
    exact ⟨rfl, rfl, rfl, rfl, rfl⟩

theorem State.decodeFrame_sameTxPath (f : Frame) : SameTxPath s (s.decodeFrame f) := by
  rcases s.decodeFrame_cases f with ⟨v, -, he⟩ | ⟨-, he⟩ <;>
    (rw [he]; exact ⟨rfl, rfl, rfl, rfl, rfl⟩)

theorem State.decodeNext_sameTxPath : SameTxPath s s.decodeNext := by
  cases hq : s.rxq with
  | nil => simpa [State.decodeNext, hq, head] using SameTxPath.refl s
  | cons f q =>
    have hnext : s.decodeNext = s.dequeueRx.decodeFrame f := by simp [State.decodeNext, hq, head]
    rw [hnext]
    exact s.dequeueRx_sameTxPath.trans (s.dequeueRx.decodeFrame_sameTxPath f)

variable {s}

/-- An enabled SCAN_EMIT has a pending key, whose frame it pushes. -/
theorem State.emit_of_emitEnabled (he : s.emitEnabled = true) :
    ∃ i, s.scEmit.testBit i = true ∧ s.emitFrame = some (keyFrame s.cfg s.scFresh i) ∧
      s.emit = (s.enqueueTx (keyFrame s.cfg s.scFresh i)).setEmit (s.scEmit ^^^ 2 ^ i) := by
  rcases s.emit_cases with ⟨hzero, -, -⟩ | ⟨i, hbit, -, hframe, hemit⟩
  · simp [State.emitEnabled, State.emitPending, hzero] at he
  · exact ⟨i, hbit, hframe, hemit⟩

/-- What a completing operation does to the transmit path: it leaves it, or it is an enabled SCAN_EMIT under one of its
two names (log entry 8), TX_DEQ, or TX_ISSUE. -/
theorem effect_txPath {i : Instr} (he : enabled i s = true) :
    SameTxPath s (effect i s) ∨
      ((i = .scanEmit ∨ ∃ f, i = .txEnq f ∧ s.emitFrame = some f) ∧ s.emitEnabled = true ∧ effect i s = s.emit) ∨
      (∃ f q, s.txq = f :: q ∧ effect i s = (s.setTxq q).setHold f) ∨
      (s.txHoldValid = true ∧ effect i s = s.issue) := by
  cases i with
  | scanEmit => exact .inr (.inl ⟨.inl rfl, he, rfl⟩)
  | txEnq f =>
    simp only [enabled, State.txEnqEnabled, Bool.and_eq_true, beq_iff_eq] at he
    exact .inr (.inl ⟨.inr ⟨f, rfl, he.2⟩, he.1, rfl⟩)
  | txDeq =>
    obtain ⟨f, q, hq⟩ := State.txq_cons_of_txDeqEnabled he
    exact .inr (.inr (.inl ⟨f, q, hq, State.dequeueTx_cons hq⟩))
  | txIssue =>
    simp only [enabled, State.txIssueEnabled, Bool.and_eq_true] at he
    obtain ⟨⟨-, hv⟩, -⟩ := he
    exact .inr (.inr (.inr ⟨hv, rfl⟩))
  | rxFrame a data =>
    simp only [effect]
    split
    · exact .inl (s.arrive_sameTxPath _ _)
    · exact .inl ⟨rfl, rfl, rfl, rfl, rfl⟩
  | rxDeq => exact .inl s.dequeueRx_sameTxPath
  | mdStep | framePress _ _ _ _ _ _ _ | frameRelease _ _ _ _ _ _ _ => exact .inl s.decodeNext_sameTxPath
  | scanCommit | sampleTick | txDone | displayRead | reservedA | reservedB | reservedC | reservedD | reservedE
  | reservedF => exact .inl ⟨rfl, rfl, rfl, rfl, rfl⟩
  | scanCapture _ | qdStep _ _ | qdT0 _ | qdT1 _ | qdT2 _ | qdT3 _ | qdT4 _ | qdT5 _ | qdT6 _ | qdT7 _ | qdT8 _
  | qdT9 _ | qdTA _ | qdTB _ | qdTC _ | qdTD _ | qdTE _ | qdTF _ => exact .inl (s.capture_sameTxPath _)

end TxPath

/-! ### Every frame of the transmit path is the scanner's (R270) -/

section TxBuilt

variable {s t : State}

/-- The frame of a pending key is one the scanner builds: a pending key is a note key, as the edge mask has no other
bit (R34, R184). -/
theorem scannerFrame_keyFrame {c : Config} {e i : Nat} (he : e < 2 ^ c.nNoteKeys) (hbit : e.testBit i = true)
    (f : Nat) : scannerFrame c (keyFrame c f i) := by
  have hpow : 2 ^ i < 2 ^ c.nNoteKeys := (Nat.ge_two_pow_of_testBit hbit).trans_lt he
  have hi : i < c.nNoteKeys := (Nat.pow_lt_pow_iff_right Nat.one_lt_two).mp hpow
  refine ⟨_, i, ?_, hi, rfl⟩
  cases pressed c f i
  · exact .inr rfl
  · exact .inl rfl

theorem txBuilt_of_sameTxPath (h : SameTxPath s t) (hb : txBuilt s) : txBuilt t := by
  obtain ⟨hcfg, hq, hv, hf, hbus⟩ := h
  simpa only [txBuilt, hcfg, hq, hv, hf, hbus] using hb

theorem txBuilt_push {f : Frame} (e : Nat) (hf : scannerFrame s.cfg f) (hb : txBuilt s) :
    txBuilt ((s.enqueueTx f).setEmit e) := by
  obtain ⟨hq, hhold, hbus⟩ := hb
  refine ⟨fun g hg => ?_, hhold, hbus⟩
  rcases List.mem_append.mp hg with hg | hg
  · exact hq g hg
  · exact List.mem_singleton.mp hg ▸ hf

theorem txBuilt_hold {f : Frame} {q : List Frame} (hq : s.txq = f :: q) (hb : txBuilt s) :
    txBuilt ((s.setTxq q).setHold f) := by
  obtain ⟨hall, -, hbus⟩ := hb
  rw [hq] at hall
  exact ⟨fun g hg => hall g (List.mem_cons_of_mem f hg), fun _ => hall f List.mem_cons_self, hbus⟩

theorem txBuilt_issue (hv : s.txHoldValid = true) (hb : txBuilt s) : txBuilt s.issue := by
  obtain ⟨hq, hhold, hbus⟩ := hb
  refine ⟨hq, fun h => Bool.noConfusion h, fun g hg => ?_⟩
  rcases List.mem_append.mp hg with hg | hg
  · exact hbus g hg
  · exact List.mem_singleton.mp hg ▸ hhold hv

/-- After any operation the transmit path is still the scanner's, and its FIFO is longer only by the frame an enabled
SCAN_EMIT pushes: each way the path can change (`effect_txPath`) keeps `txBuilt`. -/
theorem exec_txBuilt {i : Instr} (hl : legal s.cfg = true) (hmask : s.scEmit < 2 ^ s.cfg.nNoteKeys) (hb : txBuilt s)
    (h : exec i s = .next t) :
    txBuilt t ∧
      (t.txq = s.txq ∨ t.txq = s.txq.tail ∨
        (∃ f, scannerFrame s.cfg f ∧ t.txq = s.txq ++ [f] ∧ (i = .scanEmit ∨ i = .txEnq f)) ∧
          s.emitEnabled = true ∧ exec .scanEmit s = .next t) := by
  rcases exec_cases h with ⟨-, he, rfl⟩ | ⟨-, -, rfl⟩ | ⟨hill, -⟩
  · rcases effect_txPath he with hsame | ⟨hname, hen, hemit⟩ | ⟨f, q, hq, hdeq⟩ | ⟨hv, hissue⟩
    · exact ⟨txBuilt_of_sameTxPath hsame hb, .inl hsame.txq⟩
    · obtain ⟨k, hbit, hframe, hpush⟩ := State.emit_of_emitEnabled hen
      have hf : scannerFrame s.cfg (keyFrame s.cfg s.scFresh k) := scannerFrame_keyFrame hmask hbit _
      have hx : exec .scanEmit s = .next s.emit := exec_enabled rfl hl hen
      have hi : i = .scanEmit ∨ i = .txEnq (keyFrame s.cfg s.scFresh k) := by
        rcases hname with hi | ⟨f, hi, hf'⟩
        · exact .inl hi
        · exact .inr (by rw [hi, Option.some.inj (hf'.symm.trans hframe)])
      rw [hemit]
      refine ⟨hpush ▸ txBuilt_push _ hf hb, .inr (.inr ⟨⟨_, hf, ?_, hi⟩, hen, hx⟩)⟩
      rw [hpush]; rfl
    · rw [hdeq]
      exact ⟨txBuilt_hold hq hb, .inr (.inl (by rw [hq]; rfl))⟩
    · rw [hissue]
      exact ⟨txBuilt_issue hv hb, .inl rfl⟩
  · exact ⟨hb, .inl rfl⟩
  · simp [hl] at hill

end TxBuilt

/-- Settles O10: a step waits, or it runs the decoded operation on the state whose trace goes on behind it
(`step_cases`), which has the same transmit path; `exec_txBuilt` says what the operation makes of that. -/
theorem eventsSendOnlyScannerFrames : Obligations.EventsSendOnlyScannerFrames := by
  intro s t i rest hin hb hd h
  rcases step_cases h with ⟨hempty, -⟩ | ⟨j, r, hj, hrun⟩
  · rw [hd] at hempty; cases hempty
  · obtain ⟨rfl, rfl⟩ : i = j ∧ rest = r := by rw [hd] at hj; cases hj; exact ⟨rfl, rfl⟩
    rcases hrun with ⟨-, rfl⟩ | ⟨-, hx⟩
    · exact ⟨hb, .inl rfl⟩
    · exact exec_txBuilt (s := s.setTrace rest) hin.cfgLegal hin.scEmit hb hx

end Sys2Proof.Machine

/-! PROOFS. The statements of 47_environment.md: MD_STEP by the kind and the note of the frame it takes (R341). -/

namespace Sys2Proof.Machine

/-! ### The step size a frame names (R105, R107, R341) -/

section DecodedStep

variable (c : Config) (id : Nat) (octave note : Byte) (r : List Byte)

theorem decodedStep_release : decodedStep c ⟨id, kindRelease :: octave :: note :: r⟩ = some 0 := rfl

/-- A Press is looked up by its note alone, the octave is never applied (R106). -/
theorem decodedStep_press_of_le (h : note.toNat ≤ 11) :
    decodedStep c ⟨id, kindPress :: octave :: note :: r⟩ = c.stepTable[note.toNat]? := if_pos h

theorem decodedStep_press_of_gt (h : 11 < note.toNat) :
    decodedStep c ⟨id, kindPress :: octave :: note :: r⟩ = none := if_neg (Nat.not_le.mpr h)

theorem decodedStep_otherKind {kind : Byte} (hp : kind ≠ kindPress) (hr : kind ≠ kindRelease) :
    decodedStep c ⟨id, kind :: octave :: note :: r⟩ = none := by
  simp [decodedStep, hp, hr]

end DecodedStep

/-- A legal step table has an entry for each note up to 11 (R76). -/
theorem exists_stepTable_entry {c : Config} (hl : legal c = true) {n : Nat} (hn : n ≤ 11) :
    ∃ v, c.stepTable[n]? = some v := by
  simp only [legal, stepTableLegal, Bool.and_eq_true, beq_iff_eq] at hl
  obtain ⟨⟨-, ⟨hlen, -⟩, -⟩, -⟩ := hl
  exact ⟨_, List.getElem?_eq_getElem (show n < c.stepTable.length by omega)⟩

/-! ### MD_STEP on the head of `rxq` -/

section DecodeNext

variable {s : State} {f : Frame} {q : List Frame}

theorem State.rxDeqEnabled_of_cons (hh : s.halted = false) (hq : s.rxq = f :: q) : s.rxDeqEnabled = true := by
  simp [State.rxDeqEnabled, State.rxEmpty, empty, hh, hq]

theorem State.rxDeqEnabled_of_nil (hq : s.rxq = []) : s.rxDeqEnabled = false := by
  simp [State.rxDeqEnabled, State.rxEmpty, empty, hq]

theorem State.decodeNext_of_cons (hq : s.rxq = f :: q) :
    s.decodeNext = ((s.setRxq q).emitRx f).decodeFrame f := by
  simp [State.decodeNext, head, hq, State.dequeueRx_cons hq]

/-- A frame that names a step size writes it, and raises nothing. -/
theorem State.decodeNext_of_some {v : Nat} (hq : s.rxq = f :: q) (hv : decodedStep s.cfg f = some v) :
    s.decodeNext = { s with rxq := q, rxOut := s.rxOut ++ [f], mdCache := some f, ssStep := v } := by
  rcases ((s.setRxq q).emitRx f).decodeFrame_cases f with ⟨w, hw, hd⟩ | ⟨hn, -⟩
  · obtain rfl : v = w := Option.some.inj (hv.symm.trans hw)
    exact (State.decodeNext_of_cons hq).trans hd
  · cases hv.symm.trans hn

/-- A frame that names none leaves the step size, and raises DecodeIgnored (R370 code 3). -/
theorem State.decodeNext_of_none (hq : s.rxq = f :: q) (hv : decodedStep s.cfg f = none) :
    s.decodeNext = { s with rxq := q, rxOut := s.rxOut ++ [f], mdCache := some f,
                            raised := s.raised ++ [.decodeIgnored] } := by
  rcases ((s.setRxq q).emitRx f).decodeFrame_cases f with ⟨w, hw, -⟩ | ⟨-, hd⟩
  · cases hv.symm.trans hw
  · exact (State.decodeNext_of_cons hq).trans hd

/-- Whatever the frame, it is handed out and cached, and only the step size and the record of conditions can change
besides. -/
theorem State.decodeNext_frame (hq : s.rxq = f :: q) :
    s.decodeNext = { s with rxq := q, rxOut := s.rxOut ++ [f], mdCache := some f,
                            ssStep := s.decodeNext.ssStep, raised := s.decodeNext.raised } := by
  cases hv : decodedStep s.cfg f with
  | some v => rw [State.decodeNext_of_some hq hv]
  | none => rw [State.decodeNext_of_none hq hv]

theorem State.decodeNext_writes (hq : s.rxq = f :: q) {v : Nat} (hv : decodedStep s.cfg f = some v) :
    s.decodeNext.ssStep = v ∧ s.decodeNext.raised = s.raised := by
  rw [State.decodeNext_of_some hq hv]
  exact ⟨rfl, rfl⟩

theorem State.decodeNext_ignores (hq : s.rxq = f :: q) (hv : decodedStep s.cfg f = none) :
    s.decodeNext.ssStep = s.ssStep ∧ s.decodeNext.raised = s.raised ++ [.decodeIgnored] := by
  rw [State.decodeNext_of_none hq hv]
  exact ⟨rfl, rfl⟩

end DecodeNext

/-- Settles O50: a frame enables the step, whose effect outside the step size and the conditions is
`State.decodeNext_frame`; those two follow the step size the frame names (`decodedStep_release`,
`decodedStep_press_of_le`, `decodedStep_press_of_gt`, `decodedStep_otherKind`). -/
theorem mdStepEffect : Obligations.MdStepEffect := by
  intro s hl hh
  refine ⟨fun id kind octave note r q hq => ?_, fun hq => exec_hold rfl hl (State.rxDeqEnabled_of_nil hq)⟩
  have hx : exec .mdStep s = .next s.decodeNext := exec_enabled rfl hl (State.rxDeqEnabled_of_cons hh hq)
  refine ⟨s.decodeNext, hx, State.decodeNext_frame hq, ?release, ?press, ?pressHigh, ?other⟩
  case release =>
    rintro rfl
    exact State.decodeNext_writes hq (decodedStep_release s.cfg id octave note r)
  case press =>
    rintro rfl hnote
    obtain ⟨v, hv⟩ := exists_stepTable_entry hl hnote
    obtain ⟨hstep, hraised⟩ :=
      State.decodeNext_writes hq ((decodedStep_press_of_le s.cfg id octave note r hnote).trans hv)
    exact ⟨hstep ▸ hv, hraised⟩
  case pressHigh =>
    rintro rfl hnote
    exact State.decodeNext_ignores hq (decodedStep_press_of_gt s.cfg id octave note r hnote)
  case other =>
    intro hp hr
    exact State.decodeNext_ignores hq (decodedStep_otherKind s.cfg id octave note r hp hr)

end Sys2Proof.Machine

/-! PROOFS. The statements of 60_exceptions.md: what no step changes (R45, R47, R377). -/

namespace Sys2Proof.Machine

/-! ### No writer of R54 writes a parameter or clears the refused mark -/

section Fixed

variable {i : Instr} {s t : State}

theorem Writes.cfg_eq (h : Writes i s t) : t.cfg = s.cfg := by cases h <;> rfl

/-- A refused operation sets the mark and every other writer leaves it, so nothing clears it. -/
theorem Writes.refused_of_refused (h : Writes i s t) (hr : s.refused = true) : t.refused = true := by
  cases h with
  | refuse => exact State.markRefused_refused s
  | _ => exact hr

end Fixed

/-- Settles O11: a step leaves the state, or runs the decoded operation on the state whose trace goes on behind it
(`step_cases`), which has the same halted bit, parameters and mark; of the writers (`exec_writes`) none changes the
first two or clears the mark. -/
theorem haltAndParametersAreFixed : Obligations.HaltAndParametersAreFixed := by
  intro s t h
  rcases step_cases h with ⟨-, rfl⟩ | ⟨i, rest, -, ⟨-, rfl⟩ | ⟨-, hx⟩⟩
  · exact ⟨rfl, rfl, id⟩
  · exact ⟨rfl, rfl, id⟩
  · have hw : Writes i (s.setTrace rest) t := exec_writes hx
    exact ⟨hw.halted_eq, hw.cfg_eq, hw.refused_of_refused⟩

end Sys2Proof.Machine

/-! PROOFS. The statements of 30_encoding.md and of one step: the byte layout read back and forth (R120, R122, R125, log
entry 7), and what a step makes of the bytes it meets (R13, R83). -/

namespace Sys2Proof

open Sys2Proof.Machine Sys2Proof.Laws.EncodeHead

/-! ### Reading back what was written -/

/-- The payload bytes after a frame kind are read back. -/
theorem takeBody_append (c : Config) (o n r3 r4 r5 r6 : Byte) (l rest : List Byte)
    (go : Byte → Byte → Byte → Byte → Byte → Byte → List Byte → List Byte → Decoded)
    (h : l.length = c.frameBytes - 7) :
    takeBody c (o :: n :: r3 :: r4 :: r5 :: r6 :: (l ++ rest)) go = go o n r3 r4 r5 r6 l rest := by
  simp only [takeBody, ← h, takeBytes_append]

/-- The operands of a decoder row are read back, whichever of the 16 transitions the row is. -/
theorem decode_encode_update {c : Config} {row : KnobUpdate → Instr} {u : KnobUpdate} (rest : List Byte)
    (hdec : ∀ bs, decodeWord c (firstByte (row u)) bs = takeUpdate c bs fun u r => .instr (row u) r)
    (henc : encode c (row u) = firstByte (row u) :: putUpdate c u) (hw : u.wf c = true) :
    decode c (encode c (row u) ++ rest) = .instr (row u) rest := by
  rw [henc, List.cons_append, decode, hdec, takeUpdate_put _ _ _ _ hw]

/-- Settles O1: the first byte selects the operation's row, and each operand form is read back by its own lemma
(`takeBits_putBits`, `takeUpdate_put`, `takeArrival_put`, `takeBody_append`, `takeBytes_append`). -/
theorem decodeEncodeRoundTrip : Obligations.DecodeEncodeRoundTrip := by
  intro c i rest hw
  cases i with
  | scanCapture m =>
    exact takeBits_putBits c.snapW m rest (fun m r => .instr (.scanCapture m) r) (of_decide_eq_true hw)
  | rxFrame a data =>
    obtain ⟨o, id⟩ := a
    simp only [Instr.wf, Bool.and_eq_true, decide_eq_true_eq] at hw
    have hread := takeArrival_put c o id data rest hw.1 hw.2
    rw [encode, List.cons_append, List.append_assoc, List.append_assoc]
    cases o <;> exact hread
  | qdStep u v =>
    have hcode : takeBits 2 (putBits 2 v.toNat ++ rest) (fun w r => .instr (.qdStep u (BitVec.ofNat 2 w)) r) =
        .instr (.qdStep u v) rest := by
      rw [takeBits_putBits _ _ _ _ v.isLt, BitVec.ofNat_toNat, BitVec.setWidth_eq]
    rw [encode, List.cons_append, List.append_assoc]
    exact (takeUpdate_put c u _
      (fun u r => takeBits 2 r fun w r => .instr (.qdStep u (BitVec.ofNat 2 w)) r) hw).trans hcode
  | framePress o n r3 r4 r5 r6 l =>
    exact takeBody_append c o n r3 r4 r5 r6 l rest
      (fun o n r3 r4 r5 r6 l r => .instr (.framePress o n r3 r4 r5 r6 l) r) (beq_iff_eq.mp hw)
  | frameRelease o n r3 r4 r5 r6 l =>
    exact takeBody_append c o n r3 r4 r5 r6 l rest
      (fun o n r3 r4 r5 r6 l r => .instr (.frameRelease o n r3 r4 r5 r6 l) r) (beq_iff_eq.mp hw)
  | txEnq f =>
    obtain ⟨id, data⟩ := f
    simp only [Instr.wf, Bool.and_eq_true, decide_eq_true_eq, beq_iff_eq] at hw
    have hdata : takeBytes c.frameBytes (data ++ rest) (fun data r => .instr (.txEnq ⟨id, data⟩) r) =
        .instr (.txEnq ⟨id, data⟩) rest := by rw [← hw.2, takeBytes_append]
    rw [encode, List.cons_append, List.append_assoc]
    exact (takeBits_putBits c.busIdW id _
      (fun id r => takeBytes c.frameBytes r fun data r => .instr (.txEnq ⟨id, data⟩) r) hw.1).trans hdata
  | qdT0 u | qdT1 u | qdT2 u | qdT3 u | qdT4 u | qdT5 u | qdT6 u | qdT7 u | qdT8 u | qdT9 u | qdTA u | qdTB u
  | qdTC u | qdTD u | qdTE u | qdTF u => exact decode_encode_update rest (fun _ => rfl) rfl hw
  | _ => rfl

/-! ### What a reader of operands accepts is what the writer makes -/

section Inversion

variable {c : Config} {bs rest : List Byte} {i : Instr}

theorem takeBits_eq_instr {w : Nat} {go : Nat → List Byte → Decoded} (h : takeBits w bs go = .instr i rest) :
    ∃ v r, v < 2 ^ w ∧ bs = putBits w v ++ r ∧ go v r = .instr i rest := by
  unfold takeBits at h
  split at h
  · cases h
  next p hp =>
    obtain ⟨hbs, hlen⟩ := splitBytes_eq_some hp
    split at h
    next hlt => exact ⟨_, _, hlt, by rw [putBits, ← hlen, leBytes_leNat, ← hbs], h⟩
    next => cases h

theorem takeUpdate_eq_instr {go : KnobUpdate → List Byte → Decoded} (h : takeUpdate c bs go = .instr i rest) :
    ∃ u r, u.wf c = true ∧ bs = putUpdate c u ++ r ∧ go u r = .instr i rest := by
  unfold takeUpdate takeKnob at h
  obtain ⟨k, r, -, rfl, hknob⟩ := takeBits_eq_instr h
  split at hknob
  next hk =>
    obtain ⟨m, r', hm, rfl, hgo⟩ := takeBits_eq_instr hknob
    exact ⟨⟨k, m⟩, r', by simp [KnobUpdate.wf, hk, hm], by simp [putUpdate], hgo⟩
  next => cases hknob

theorem takeBytes_eq_instr {n : Nat} {go : List Byte → List Byte → Decoded} (h : takeBytes n bs go = .instr i rest) :
    ∃ data r, data.length = n ∧ bs = data ++ r ∧ go data r = .instr i rest := by
  unfold takeBytes at h
  split at h
  · cases h
  next p hp =>
    obtain ⟨hbs, hlen⟩ := splitBytes_eq_some hp
    exact ⟨p.1, p.2, hlen, hbs, h⟩

theorem takeArrival_eq_instr {o : Origin} (h : takeArrival c o bs = .instr i rest) :
    ∃ id data, id < 2 ^ c.busIdW ∧ data.length < 2 ^ lenW c ∧ i = .rxFrame ⟨o, id⟩ data ∧
      bs = putBits c.busIdW id ++ (putBits (lenW c) (lengthCode c data.length) ++ data) ++ rest := by
  obtain ⟨id, r, hid, rfl, hid'⟩ := takeBits_eq_instr h
  obtain ⟨l, r, hl, rfl, hl'⟩ := takeBits_eq_instr hid'
  obtain ⟨data, r, hdata, rfl, hgo⟩ := takeBytes_eq_instr hl'
  cases hgo
  have hcode : lengthCode c data.length = l := by rw [hdata, lengthCode_lengthCode c hl]
  exact ⟨id, data, hid, hdata ▸ lengthCode_lt c hl, rfl, by simp [hcode]⟩

theorem takeBody_eq_instr {go : Byte → Byte → Byte → Byte → Byte → Byte → List Byte → List Byte → Decoded}
    (h : takeBody c bs go = .instr i rest) :
    ∃ o n r3 r4 r5 r6 l r, l.length = c.frameBytes - 7 ∧ bs = o :: n :: r3 :: r4 :: r5 :: r6 :: l ++ r ∧
      go o n r3 r4 r5 r6 l r = .instr i rest := by
  unfold takeBody at h
  split at h
  next o n r3 r4 r5 r6 r =>
    obtain ⟨l, r, hl, rfl, hgo⟩ := takeBytes_eq_instr h
    exact ⟨o, n, r3, r4, r5, r6, l, r, hl, rfl, hgo⟩
  next => cases h

end Inversion

/-! ### Each row of the decoder reads only its own encoding -/

/-- Whatever `d` is, read from the bytes after the first byte `b`, an operation it names is well-formed and has these
bytes as its encoding. -/
def ReadsEncoding (c : Config) (b : Byte) (bs : List Byte) (d : Decoded) : Prop :=
  ∀ i rest, d = .instr i rest → i.wf c = true ∧ b :: bs = encode c i ++ rest

section Rows

variable {c : Config} {b : Byte} {bs : List Byte}

theorem ReadsEncoding.reject (e : DecodeError) : ReadsEncoding c b bs (.reject e) := by
  intro i rest h
  cases h

theorem ReadsEncoding.noOperand {j : Instr} (hb : b.toNat = (firstByte j).toNat) (hw : j.wf c = true)
    (he : encode c j = [firstByte j]) : ReadsEncoding c b bs (.instr j bs) := by
  intro i rest h
  cases h
  exact ⟨hw, by rw [he, BitVec.eq_of_toNat_eq hb]; rfl⟩

theorem ReadsEncoding.capture (hb : b.toNat = 0) :
    ReadsEncoding c b bs (takeBits c.snapW bs fun m r => .instr (.scanCapture m) r) := by
  intro i rest h
  obtain ⟨m, r, hm, rfl, hgo⟩ := takeBits_eq_instr h
  cases hgo
  exact ⟨decide_eq_true hm, by rw [BitVec.eq_of_toNat_eq (y := 0x00#8) hb]; rfl⟩

theorem ReadsEncoding.arrival (o : Origin) (hb : b.toNat = o.code.toNat) :
    ReadsEncoding c b bs (takeArrival c o bs) := by
  intro i rest h
  obtain ⟨id, data, hid, hlen, rfl, hbs⟩ := takeArrival_eq_instr h
  exact ⟨by simp [Instr.wf, hid, hlen], by rw [BitVec.eq_of_toNat_eq hb, hbs]; rfl⟩

theorem ReadsEncoding.update {row : KnobUpdate → Instr} (hb : ∀ u, b.toNat = (firstByte (row u)).toNat)
    (hw : ∀ u, (row u).wf c = u.wf c) (he : ∀ u, encode c (row u) = firstByte (row u) :: putUpdate c u) :
    ReadsEncoding c b bs (takeUpdate c bs fun u r => .instr (row u) r) := by
  intro i rest h
  obtain ⟨u, r, hu, rfl, hgo⟩ := takeUpdate_eq_instr h
  cases hgo
  exact ⟨(hw u).trans hu, by rw [BitVec.eq_of_toNat_eq (hb u), he]; rfl⟩

theorem ReadsEncoding.qdStep (hb : b.toNat = 0x20) :
    ReadsEncoding c b bs (takeUpdate c bs fun u r => takeBits 2 r fun v r =>
      .instr (.qdStep u (BitVec.ofNat 2 v)) r) := by
  intro i rest h
  obtain ⟨u, r, hu, rfl, hcode⟩ := takeUpdate_eq_instr h
  obtain ⟨v, r, hv, rfl, hgo⟩ := takeBits_eq_instr hcode
  cases hgo
  have htoNat : (BitVec.ofNat 2 v).toNat = v := by rw [BitVec.toNat_ofNat, Nat.mod_eq_of_lt hv]
  exact ⟨hu, by simp [encode, htoNat, BitVec.eq_of_toNat_eq (y := 0x20#8) hb]⟩

theorem ReadsEncoding.txEnq (hb : b.toNat = 0x21) :
    ReadsEncoding c b bs (takeBits c.busIdW bs fun id r => takeBytes c.frameBytes r fun data r =>
      .instr (.txEnq ⟨id, data⟩) r) := by
  intro i rest h
  obtain ⟨id, r, hid, rfl, hpayload⟩ := takeBits_eq_instr h
  obtain ⟨data, r, hdata, rfl, hgo⟩ := takeBytes_eq_instr hpayload
  cases hgo
  exact ⟨by simp [Instr.wf, hid, hdata], by simp [encode, BitVec.eq_of_toNat_eq (y := 0x21#8) hb]⟩

theorem ReadsEncoding.press (hb : b.toNat = 0x50) :
    ReadsEncoding c b bs (takeBody c bs fun o n r3 r4 r5 r6 l r => .instr (.framePress o n r3 r4 r5 r6 l) r) := by
  intro i rest h
  obtain ⟨o, n, r3, r4, r5, r6, l, r, hl, rfl, hgo⟩ := takeBody_eq_instr h
  cases hgo
  exact ⟨beq_iff_eq.mpr hl, by rw [BitVec.eq_of_toNat_eq (y := 0x50#8) hb]; rfl⟩

theorem ReadsEncoding.release (hb : b.toNat = 0x52) :
    ReadsEncoding c b bs (takeBody c bs fun o n r3 r4 r5 r6 l r => .instr (.frameRelease o n r3 r4 r5 r6 l) r) := by
  intro i rest h
  obtain ⟨o, n, r3, r4, r5, r6, l, r, hl, rfl, hgo⟩ := takeBody_eq_instr h
  cases hgo
  exact ⟨beq_iff_eq.mpr hl, by rw [BitVec.eq_of_toNat_eq (y := 0x52#8) hb]; rfl⟩

/-- The rows of `decodeWord` in its own order, one lemma an operand form. -/
theorem decodeWord_readsEncoding (c : Config) (b : Byte) (bs : List Byte) :
    ReadsEncoding c b bs (decodeWord c b bs) := by
  unfold decodeWord
  split
  case h_1 hb => exact .capture hb
  case h_8 hb => exact .arrival .peer hb
  case h_33 hb => exact .qdStep hb
  case h_34 hb => exact .txEnq hb
  case h_36 hb => exact .arrival .own hb
  case h_37 hb => exact .press hb
  case h_38 hb => exact .release hb
  case h_39 => exact .reject _
  case h_17 hb | h_18 hb | h_19 hb | h_20 hb | h_21 hb | h_22 hb | h_23 hb | h_24 hb | h_25 hb | h_26 hb | h_27 hb
    | h_28 hb | h_29 hb | h_30 hb | h_31 hb | h_32 hb => exact .update (fun _ => hb) (fun _ => rfl) (fun _ => rfl)
  all_goals next hb => exact .noOperand hb rfl rfl

end Rows

/-- Settles O2: the bytes of each row of the decoder are its operation's encoding (`decodeWord_readsEncoding`). -/
theorem decodeReadsOnlyEncodings : Obligations.DecodeReadsOnlyEncodings := by
  intro c bs i rest h
  cases bs with
  | nil => cases h
  | cons b bs => exact decodeWord_readsEncoding c b bs i rest h

/-- Settles O3: each word is the encoding of its operation, so it decodes to it. -/
theorem tableWordsDecode : Obligations.TableWordsDecode := by
  have hread (i : Instr) (rest : List Byte) (hw : i.wf Config.default = true) :=
    decodeEncodeRoundTrip Config.default i rest hw
  exact ⟨hread (.scanCapture 0xFFFFCFDF) [] (by decide), hread .scanEmit [0x02#8] rfl, hread .scanCommit [] rfl,
    hread .sampleTick [] rfl, hread .txDeq [] rfl, hread .txIssue [] rfl, hread .txDone [] rfl,
    hread (.rxFrame ⟨.peer, 0x123⟩ [0x50#8, 0x04#8, 0x05#8, 0#8, 0#8, 0#8, 0#8, 0#8]) [] (by decide),
    hread .mdStep [] rfl, hread .displayRead [] rfl, hread .reservedA [] rfl, hread .reservedB [] rfl,
    hread .reservedC [] rfl, hread .reservedD [] rfl, hread .reservedE [] rfl, hread .reservedF [] rfl,
    hread (.framePress 0x04#8 0x05#8 0#8 0#8 0#8 0#8 [0#8]) [] (by decide), hread (.qdT3 ⟨0, 0xFFFFFFFF⟩) [] (by decide)⟩

/-- Settles O4: a legal configuration has room for the three bytes R109 names (`length_mkFrame`); the rest are zeros. -/
theorem frameConstruction : Obligations.FrameConstruction := by
  intro c kind note hl
  have hbytes : 8 ≤ c.frameBytes := by
    simp only [legal, busLegal, Bool.and_eq_true, decide_eq_true_eq] at hl
    omega
  refine ⟨rfl, length_mkFrame (by omega) kind note, ⟨_, rfl, fun b hb => List.eq_of_mem_replicate hb⟩, fun h8 => ?_⟩
  simp [mkFrame, h8, List.replicate]

/-- Settles O5: a reserved code's meaning is the mark alone, whatever the state (R121). -/
theorem reservedCodesAreRefused : Obligations.ReservedCodesAreRefused := by
  intro s i hi
  simp only [List.mem_cons, List.not_mem_nil, or_false] at hi
  rcases hi with rfl | rfl | rfl | rfl | rfl | rfl <;> rfl

/-! ### What a step makes of the bytes it meets -/

/-- Where the trace offers an operation, the step runs it on the state whose trace goes on behind it, or waits. -/
theorem step_of_decode {s : State} {i : Instr} {rest : List Byte} (hd : decode s.cfg s.trace = .instr i rest) :
    step s = if holds i s then .next s else exec i (s.setTrace rest) := by
  simp only [step, State.fetch, hd]

/-- Settles O6: `step_of_decode` says what the step is, and an operation that waits is one that is not enabled
(`exec_hold`). -/
theorem stepRunsDecodedOperation : Obligations.StepRunsDecodedOperation := by
  refine ⟨fun s i rest hw hd => ⟨fun hrun => ?_, fun hwait => ⟨?_, ?_⟩⟩, fun s hempty => ?_⟩
  · rw [step_of_decode hd, hrun]
    rfl
  · rw [step_of_decode hd, if_pos hwait]
  · simp only [holds, Bool.and_eq_true, Bool.not_eq_true'] at hwait
    exact exec_hold hw hwait.1 hwait.2
  · simp only [step, State.fetch, hempty, decode]

/-- Settles O7: an operation the decoder reads is well-formed (`decodeReadsOnlyEncodings`), so it waits or answers a
next state (`exec_answers`), and with no byte offered the step idles. -/
theorem stepStopsOnlyOnNonOperations : Obligations.StepStopsOnlyOnNonOperations := by
  intro s hstop
  cases hd : decode s.cfg s.trace with
  | reject e => exact ⟨e, rfl⟩
  | empty => exact absurd (by simp only [step, State.fetch, hd]) (hstop s)
  | instr i rest =>
    exfalso
    obtain ⟨hw, -⟩ := decodeReadsOnlyEncodings s.cfg s.trace i rest hd
    by_cases hwait : holds i s = true
    · exact hstop s (by rw [step_of_decode hd, if_pos hwait])
    · obtain ⟨t, ht⟩ := exec_answers (s.setTrace rest) i hw
      exact hstop t (by rw [step_of_decode hd, if_neg hwait, ht])

end Sys2Proof

/-! PROOFS. The statements of 10_state.md about every step: the invariant (R30 to R44), and what halts or refuses every
operation (R9, R376). They and the statements over runs go by the event whose step an operation is. -/

namespace Sys2Proof.Machine

/-! ### What completes: one constructor an event, with what its enabling says of the state -/

/-- `t` is what the event makes of `s` where it completes. A row without an event code completes as its event does
(log entry 8), so these are all the steps there are beside a hold and a refused configuration. -/
inductive Completes (s : State) : Instr → State → Prop
  | capture (m : Nat) (he : s.captureEnabled = true) : Completes s (.scanCapture m) (s.capture m)
  | emit (k : Nat) (he : s.emitEnabled = true) (hbit : s.scEmit.testBit k = true)
      (hframe : s.emitFrame = some (keyFrame s.cfg s.scFresh k)) :
      Completes s .scanEmit ((s.enqueueTx (keyFrame s.cfg s.scFresh k)).setEmit (s.scEmit ^^^ 2 ^ k))
  | commit (he : s.commitEnabled = true) : Completes s .scanCommit s.commit
  | sample (he : s.eventEnabled = true) : Completes s .sampleTick s.sample
  | txDeq {f : Frame} {q : List Frame} (he : s.txDeqEnabled = true) (hq : s.txq = f :: q) :
      Completes s .txDeq ((s.setTxq q).setHold f)
  | txIssue (he : s.txIssueEnabled = true) : Completes s .txIssue s.issue
  | txDone (he : s.eventEnabled = true) : Completes s .txDone s.complete
  | rxFrame (a : Arrival) (data : List Byte) (hlen : data.length = s.cfg.frameBytes)
      (he : s.rxEnabled a.origin ⟨a.id, data⟩ = true) :
      Completes s (.rxFrame a data) (s.arrive a.origin ⟨a.id, data⟩)
  | decode {f : Frame} {q : List Frame} (he : s.rxDeqEnabled = true) (hq : s.rxq = f :: q) :
      Completes s .mdStep s.decodeNext
  | rxDeq {f : Frame} {q : List Frame} (he : s.rxDeqEnabled = true) (hq : s.rxq = f :: q) :
      Completes s .rxDeq ((s.setRxq q).emitRx f)
  | display (he : s.eventEnabled = true) : Completes s .displayRead s.display

/-- The inputs that are refused whatever the state: a reserved code, and a received payload not of `FRAME_BYTES` bytes
(R121, R370 code 5, log entry 6). -/
def RefusedInput (i : Instr) (s : State) : Prop :=
  i.agent = none ∨ ∃ a data, i = .rxFrame a data ∧ data.length ≠ s.cfg.frameBytes

/-- An enabled operation's effect is that of its event, but for the inputs that are refused. -/
theorem effect_completes {i : Instr} {s : State} (he : enabled i s = true) :
    Completes s (rowEvent i) (effect i s) ∨ (RefusedInput i s ∧ effect i s = s.markRefused) := by
  have hen := enabled_rowEvent he
  cases i with
  | scanEmit | txEnq _ =>
    obtain ⟨k, hbit, hframe, hemit⟩ := State.emit_of_emitEnabled hen
    rw [effect, hemit]
    exact .inl (.emit k hen hbit hframe)
  | scanCommit => exact .inl (.commit hen)
  | sampleTick => exact .inl (.sample hen)
  | txDeq =>
    obtain ⟨f, q, hq⟩ := State.txq_cons_of_txDeqEnabled hen
    rw [effect, State.dequeueTx_cons hq]
    exact .inl (.txDeq hen hq)
  | txIssue => exact .inl (.txIssue hen)
  | txDone => exact .inl (.txDone hen)
  | rxFrame a data =>
    by_cases hlen : data.length = s.cfg.frameBytes
    · rw [effect, if_pos hlen]
      exact .inl (.rxFrame a data hlen (by simpa [enabled, hlen] using he))
    · rw [effect, if_neg hlen]
      exact .inr ⟨.inr ⟨a, data, rfl, hlen⟩, rfl⟩
  | mdStep | framePress _ _ _ _ _ _ _ | frameRelease _ _ _ _ _ _ _ =>
    obtain ⟨f, q, hq⟩ := State.rxq_cons_of_rxDeqEnabled hen
    exact .inl (.decode hen hq)
  | rxDeq =>
    obtain ⟨f, q, hq⟩ := State.rxq_cons_of_rxDeqEnabled hen
    rw [effect, State.dequeueRx_cons hq]
    exact .inl (.rxDeq hen hq)
  | displayRead => exact .inl (.display hen)
  | reservedA | reservedB | reservedC | reservedD | reservedE | reservedF => exact .inr ⟨.inl rfl, rfl⟩
  | scanCapture _ | qdStep _ _ | qdT0 _ | qdT1 _ | qdT2 _ | qdT3 _ | qdT4 _ | qdT5 _ | qdT6 _ | qdT7 _ | qdT8 _
  | qdT9 _ | qdTA _ | qdTB _ | qdTC _ | qdTD _ | qdTE _ | qdTF _ => exact .inl (.capture _ hen)

/-- The configuration is refused, the operation waits, or its input is refused: no event completes. -/
def Quiet (i : Instr) (s : State) : Prop := legal s.cfg = false ∨ enabled i s = false ∨ RefusedInput i s

/-- Whatever an operation answers, its event completed, or it was quiet: a hold, or the mark alone. -/
theorem exec_completes {i : Instr} {s t : State} (h : exec i s = .next t) :
    (legal s.cfg = true ∧ enabled i s = true ∧ Completes s (rowEvent i) t) ∨
      (Quiet i s ∧ (t = s ∨ t = s.markRefused)) := by
  rcases exec_cases h with ⟨hl, he, rfl⟩ | ⟨-, he, rfl⟩ | ⟨hl, rfl⟩
  · rcases effect_completes he with hc | ⟨href, hmark⟩
    · exact .inl ⟨hl, he, hc⟩
    · exact .inr ⟨.inr (.inr href), .inr hmark⟩
  · exact .inr ⟨.inr (.inl he), .inl rfl⟩
  · exact .inr ⟨.inl hl, .inr rfl⟩

/-! ### The invariant: what a legal configuration makes fit its register -/

section Fits

variable {c : Config}

theorem stepLookup_lt (hl : legal c = true) {n v : Nat} (h : stepLookup c n = some v) : v < 2 ^ c.phaseW := by
  simp only [legal, stepTableLegal, Bool.and_eq_true, List.all_eq_true, decide_eq_true_eq] at hl
  obtain ⟨⟨-, ⟨-, hall⟩, -⟩, -⟩ := hl
  exact (hall v (List.mem_of_getElem? h)).2

theorem selectedStep_lt (hl : legal c = true) (f : Nat) : selectedStep c f < 2 ^ c.phaseW := by
  unfold selectedStep
  split
  · exact Nat.two_pow_pos _
  next k _ =>
    cases hv : stepLookup c k with
    | none => exact Nat.two_pow_pos _
    | some v => exact stepLookup_lt hl hv

theorem decodedStep_lt (hl : legal c = true) {f : Frame} {v : Nat} (h : decodedStep c f = some v) :
    v < 2 ^ c.phaseW := by
  unfold decodedStep at h
  split_ifs at h
  · cases h; exact Nat.two_pow_pos _
  · exact stepLookup_lt hl h

theorem synthLegal_of_legal (hl : legal c = true) : synthLegal c = true := by
  simp only [legal, Bool.and_eq_true] at hl
  obtain ⟨⟨⟨-, hsynth⟩, -⟩, -⟩ := hl
  exact hsynth

theorem snapshotOk_assemble (c : Config) (m : Nat) : snapshotOk c (assemble c m) :=
  ⟨assemble_lt c m, fun i hlow hi => by rw [testBit_assemble c m i hi, if_neg (by omega)]⟩

theorem snapshotOk_allReleased (c : Config) : snapshotOk c (allReleased c) :=
  ⟨allReleased_lt c, fun i _ hi => by simp [testBit_allReleased, hi]⟩

/-- A frame the scanner builds has the deployment's identifier and `FRAME_BYTES` bytes (R9, R109). -/
theorem frameOk_keyFrame (hl : legal c = true) (f k : Nat) : frameOk c (keyFrame c f k) := by
  simp only [legal, busLegal, Bool.and_eq_true, decide_eq_true_eq] at hl
  obtain ⟨-, ⟨-, hid⟩, hbytes⟩ := hl
  exact ⟨hid, length_mkFrame (by omega) _ k⟩

end Fits

/-! ### The invariant, event by event -/

section Invariant

variable {s t : State}

theorem InRange.markRefused (h : InRange s) : InRange s.markRefused := { h with }

theorem InRange.setTrace (h : InRange s) (bs : List Byte) : InRange (s.setTrace bs) := { h with }

/-- Every rotation a capture leaves is a clamped one (R144). -/
theorem State.capture_rot_le {m : Nat} {n : Knob} (hlen : s.knobs.length = s.cfg.nKnobs)
    (hn : n ∈ (s.capture m).knobs) : n.rot ≤ s.cfg.rotMax := by
  obtain ⟨k, hk, rfl⟩ := List.mem_iff_getElem.mp hn
  rw [s.capture_length_knobs] at hk
  have hknob := State.capture_knob (s := s) m (hlen ▸ hk) (List.getElem?_eq_getElem hk)
  rw [Option.some.inj ((List.getElem?_eq_getElem _).symm.trans hknob)]
  exact constrainRotation_le _ _

theorem InRange.capture (h : InRange s) (m : Nat) : InRange (s.capture m) := by
  have hknobs : (s.capture m).knobs.length = s.cfg.nKnobs := (s.capture_length_knobs m).trans h.knobCount
  have hrot : ∀ n ∈ (s.capture m).knobs, n.rot ≤ s.cfg.rotMax := fun _ => State.capture_rot_le h.knobCount
  rw [s.capture_frame m]
  exact { h with
    knobCount := hknobs
    rotations := hrot
    scFresh := assemble_lt _ _
    scFreshBusy := fun _ => snapshotOk_assemble _ _
    scStep := selectedStep_lt h.cfgLegal _
    scEmit := edgeMask_lt _ _ _ }

theorem InRange.emit {k : Nat} (h : InRange s) (he : s.emitEnabled = true) (hbit : s.scEmit.testBit k = true) :
    InRange ((s.enqueueTx (keyFrame s.cfg s.scFresh k)).setEmit (s.scEmit ^^^ 2 ^ k)) :=
  { h with
    scEmit := Nat.xor_lt_two_pow h.scEmit ((Nat.ge_two_pow_of_testBit hbit).trans_lt h.scEmit)
    txqBound := by
      have hroom : s.txq.length ≠ s.cfg.txqCap := by
        simp only [State.emitEnabled, State.txFull, full, Bool.and_eq_true, Bool.not_eq_true', beq_eq_false_iff_ne] at he
        exact he.2
      have hle := h.txqBound
      simp only [State.setEmit_txq, State.enqueueTx_txq, List.length_append, List.length_singleton,
        State.setEmit_cfg, State.enqueueTx_cfg]
      omega
    txqFrames := List.forall_mem_append.mpr
      ⟨h.txqFrames, List.forall_mem_singleton.mpr (frameOk_keyFrame h.cfgLegal _ _)⟩ }

theorem InRange.commit (h : InRange s) (he : s.commitEnabled = true) : InRange s.commit := by
  have hfresh : snapshotOk s.cfg s.scFresh := by
    simp only [State.commitEnabled, Bool.and_eq_true] at he
    exact h.scFreshBusy he.1.2
  exact { h with
    scPrev := hfresh
    ssInputs := hfresh
    ssStep := h.scStep
    scFreshBusy := fun hbusy => Bool.noConfusion hbusy }

theorem InRange.sample (h : InRange s) : InRange s.sample := by
  have hphase : nextPhase s.cfg s.synPhase s.ssStep < 2 ^ s.cfg.phaseW := Nat.mod_lt _ (Nat.two_pow_pos _)
  obtain ⟨hlow, hhigh⟩ := sampleOf_range (synthLegal_of_legal h.cfgLegal) hphase (s.getRotation s.cfg.volKnob)
  exact { h with
    synPhase := hphase
    audioLow := hlow
    audioHigh := hhigh }

theorem InRange.txDeq {f : Frame} {q : List Frame} (h : InRange s) (hq : s.txq = f :: q) :
    InRange ((s.setTxq q).setHold f) := by
  have hlen := h.txqBound
  have hframes := h.txqFrames
  rw [hq] at hlen hframes
  exact { h with
    txqBound := Nat.le_of_succ_le hlen
    txqFrames := fun g hg => hframes g (List.mem_cons_of_mem f hg)
    holdFrame := hframes f List.mem_cons_self }

theorem State.issue_ownPending (s : State) :
    s.issue.ownPending = if s.cfg.loopback then s.ownPending ++ [s.txHoldFrame] else s.ownPending := rfl

theorem InRange.issue (h : InRange s) : InRange s.issue :=
  { h with
    mboxBound := (Nat.sub_le _ 1).trans h.mboxBound
    pendingFrames := by
      intro f hf
      rw [State.issue_ownPending] at hf
      cases hloop : s.cfg.loopback with
      | false => exact h.pendingFrames f (by simpa [hloop] using hf)
      | true =>
        have hmem : f ∈ s.ownPending ∨ f = s.txHoldFrame := by simpa [hloop] using hf
        exact hmem.elim (h.pendingFrames f) fun heq => heq ▸ h.holdFrame
    pendingLoopback := by
      intro hloop
      have hnot : s.cfg.loopback = false := hloop
      simpa [State.issue_ownPending, hnot] using h.pendingLoopback hnot }

theorem InRange.complete (h : InRange s) : InRange s.complete := { h with mboxBound := Nat.min_le_right _ _ }

/-- An arrival takes a frame of the queue's size, and the account of own frames only shrinks. -/
theorem InRange.arrive {f : Frame} (h : InRange s) (o : Origin) (hf : frameOk s.cfg f) : InRange (s.arrive o f) := by
  obtain ⟨p, hp, harrive⟩ := s.arrive_cases o f
  have hsub : ∀ g ∈ p, g ∈ s.ownPending := by
    rcases hp with ⟨-, rfl⟩ | ⟨-, rfl⟩
    · exact fun _ hg => hg
    · exact fun _ hg => List.mem_of_mem_erase hg
  have hpend : InRange { s with ownPending := p } :=
    { h with
      pendingFrames := fun g hg => h.pendingFrames g (hsub g hg)
      pendingLoopback := fun hloop => List.eq_nil_iff_forall_not_mem.mpr fun g hg =>
        List.not_mem_nil (h.pendingLoopback hloop ▸ hsub g hg) }
  rcases harrive with ⟨-, he⟩ | ⟨hid, hroom, he⟩ | ⟨-, -, he⟩
  · rw [he]; exact hpend
  · rw [he]
    have hle := h.rxqBound
    simp only [State.rxFull, full, beq_eq_false_iff_ne] at hroom
    exact { hpend with
      rxqBound := by simp only [List.length_append, List.length_singleton]; omega
      rxqFrames := List.forall_mem_append.mpr ⟨h.rxqFrames, List.forall_mem_singleton.mpr ⟨hf, hid⟩⟩ }
  · rw [he]; exact { hpend with }

theorem InRange.rxDeq {f : Frame} {q : List Frame} (h : InRange s) (hq : s.rxq = f :: q) :
    InRange ((s.setRxq q).emitRx f) := by
  have hlen := h.rxqBound
  have hframes := h.rxqFrames
  rw [hq] at hlen hframes
  exact { h with
    rxqBound := Nat.le_of_succ_le hlen
    rxqFrames := fun g hg => hframes g (List.mem_cons_of_mem f hg) }

theorem InRange.decodeNext {f : Frame} {q : List Frame} (h : InRange s) (hq : s.rxq = f :: q) :
    InRange s.decodeNext := by
  have hpop : InRange ((s.setRxq q).emitRx f) := h.rxDeq hq
  have hcache : ∀ g, some f = some g → frameOk s.cfg g := fun g hg =>
    Option.some.inj hg ▸ (h.rxqFrames f (hq ▸ List.mem_cons_self)).1
  cases hv : decodedStep s.cfg f with
  | some v =>
    rw [State.decodeNext_of_some hq hv]
    exact { hpop with ssStep := decodedStep_lt h.cfgLegal hv, cacheFrame := hcache }
  | none =>
    rw [State.decodeNext_of_none hq hv]
    exact { hpop with cacheFrame := hcache }

/-- Every event that completes keeps the invariant; an arriving frame's identifier is in its width. -/
theorem InRange.completes {j : Instr} (h : InRange s) (hw : j.wf s.cfg = true) (hc : Completes s j t) :
    InRange t := by
  cases hc with
  | capture m he => exact h.capture m
  | emit k he hbit hframe => exact h.emit he hbit
  | commit he => exact h.commit he
  | sample he => exact h.sample
  | txDeq he hq => exact h.txDeq hq
  | txIssue he => exact h.issue
  | txDone he => exact h.complete
  | rxFrame a data hlen he =>
    simp only [Instr.wf, Bool.and_eq_true, decide_eq_true_eq] at hw
    exact h.arrive _ ⟨hw.1, hlen⟩
  | decode he hq => exact h.decodeNext hq
  | rxDeq he hq => exact h.rxDeq hq
  | display he => exact { h with }

end Invariant

/-- A row's event is well-formed with it: its levels are a snapshot. -/
theorem wf_rowEvent {c : Config} {i : Instr} (hw : i.wf c = true) : (rowEvent i).wf c = true := by
  cases i with
  | qdStep u _ | qdT0 u | qdT1 u | qdT2 u | qdT3 u | qdT4 u | qdT5 u | qdT6 u | qdT7 u | qdT8 u | qdT9 u | qdTA u
  | qdTB u | qdTC u | qdTD u | qdTE u | qdTF u => exact (Bool.and_eq_true _ _ ▸ hw).2
  | framePress _ _ _ _ _ _ _ | frameRelease _ _ _ _ _ _ _ | txEnq _ => rfl
  | _ => exact hw

/-- Settles O8: a step leaves the state, or runs a decoded and so well-formed operation (`step_cases`,
`decodeReadsOnlyEncodings`) on the state whose trace goes on behind it; its event keeps the invariant
(`InRange.completes`), and so do a hold and the mark. -/
theorem stepKeepsInvariant : Obligations.StepKeepsInvariant := by
  intro s t h hstep
  rcases step_cases hstep with ⟨-, rfl⟩ | ⟨i, rest, hd, ⟨-, rfl⟩ | ⟨-, hx⟩⟩
  · exact h
  · exact h
  · have htrace : InRange (s.setTrace rest) := h.setTrace rest
    have hw : i.wf s.cfg = true := (decodeReadsOnlyEncodings s.cfg s.trace i rest hd).1
    rcases exec_completes hx with ⟨-, -, hc⟩ | ⟨-, rfl | rfl⟩
    · exact htrace.completes (wf_rowEvent hw) hc
    · exact htrace
    · exact htrace.markRefused

/-- Settles O9: each element is read off `State.resetWith`, and the unspecified ones are cut to their sizes there. -/
theorem resetMeetsInvariant : Obligations.ResetMeetsInvariant := by
  have hreset (c : Config) (u : Unspecified) (hl : legal c = true) : InRange (State.resetWith c u) := by
    have hpos : (0 : Int) < 2 ^ (c.sampleBits - 1) := by positivity
    exact {
      cfgLegal := hl
      knobCount := List.length_replicate
      rotations := fun n hn => by rw [State.mem_resetWith_knobs c u hn]; exact Nat.zero_le _
      scPrev := snapshotOk_allReleased c
      scFresh := Nat.mod_lt _ (Nat.two_pow_pos _)
      scFreshBusy := fun hbusy => Bool.noConfusion hbusy
      scStep := Nat.mod_lt _ (Nat.two_pow_pos _)
      scEmit := Nat.mod_lt _ (Nat.two_pow_pos _)
      ssInputs := snapshotOk_allReleased c
      ssStep := Nat.two_pow_pos _
      synPhase := Nat.two_pow_pos _
      audioLow := Int.neg_nonpos_of_nonneg hpos.le
      audioHigh := Int.le_sub_one_of_lt hpos
      txqBound := Nat.zero_le _
      mboxBound := le_rfl
      rxqBound := Nat.zero_le _
      txqFrames := fun _ hf => absurd hf List.not_mem_nil
      holdFrame := sized_ok c u.txHoldFrame
      rxqFrames := fun _ hf => absurd hf List.not_mem_nil
      cacheFrame := fun _ hf => nomatch hf
      pendingFrames := fun _ hf => absurd hf List.not_mem_nil
      pendingLoopback := fun _ => rfl }
  exact ⟨hreset, hreset Config.default Unspecified.zero (by decide)⟩

/-- Settles O15: every constraint evaluates on the default values. -/
theorem defaultConfigurationIsLegal : Obligations.DefaultConfigurationIsLegal := by
  unfold Obligations.DefaultConfigurationIsLegal
  decide

/-! ### Halted, and refused -/

/-- Every event is enabled only while the block is not halted. -/
theorem Completes.not_halted {s t : State} {j : Instr} (hc : Completes s j t) : s.halted = false := by
  cases hc with
  | capture _ he => simp only [State.captureEnabled, Bool.and_eq_true, Bool.not_eq_true'] at he; exact he.1
  | emit _ he => simp only [State.emitEnabled, Bool.and_eq_true, Bool.not_eq_true'] at he; exact he.1.1.1
  | commit he => simp only [State.commitEnabled, Bool.and_eq_true, Bool.not_eq_true'] at he; exact he.1.1
  | sample he | txDone he | display he => simpa [State.eventEnabled] using he
  | txDeq he => simp only [State.txDeqEnabled, Bool.and_eq_true, Bool.not_eq_true'] at he; exact he.1.1
  | txIssue he => simp only [State.txIssueEnabled, Bool.and_eq_true, Bool.not_eq_true'] at he; exact he.1.1
  | rxFrame a _ _ he =>
    obtain ⟨o, id⟩ := a
    cases o <;> simp_all [State.rxEnabled, State.eventEnabled]
  | decode he | rxDeq he => simp only [State.rxDeqEnabled, Bool.and_eq_true, Bool.not_eq_true'] at he; exact he.1

/-- Settles O12: an enabled operation's event completes (`effect_completes`), which none does while halted
(`Completes.not_halted`), or its input is one that is refused; what is not enabled holds. -/
theorem haltedBlockTakesNoStep : Obligations.HaltedBlockTakesNoStep := by
  intro s i hl hh hw ha hpay
  have hdis : enabled i s = false := by
    refine Bool.eq_false_iff.mpr fun he => ?_
    rcases effect_completes he with hc | ⟨hnone | ⟨a, data, hi, hlen⟩, -⟩
    · exact Bool.false_ne_true (hc.not_halted.symm.trans hh)
    · exact ha hnone
    · exact hlen (hpay a data hi)
  exact ⟨hdis, exec_hold hw hl hdis⟩

/-- Under an illegal configuration an operation only sets the mark: by its gate, by its payload, or as a reserved code. -/
theorem exec_illegal {s : State} (i : Instr) (hl : legal s.cfg = false) : exec i s = .next s.markRefused := by
  cases i with
  | rxFrame a data =>
    simp only [exec, execRxFrame, State.onPayload, State.gate_illegal _ hl, ite_self]
  | reservedA | reservedB | reservedC | reservedD | reservedE | reservedF => rfl
  | _ => exact State.gate_illegal _ hl

/-- Settles O13: an operation by `exec_illegal`, reset by its own definition. -/
theorem illegalConfigurationIsRefused : Obligations.IllegalConfigurationIsRefused :=
  ⟨fun _ i hl => exec_illegal i hl, fun c u hl => by simp [State.resetWith, hl]⟩

end Sys2Proof.Machine

/-! PROOFS. The statements of 44_bus_tx.md and 45_bus_rx.md over runs: both paths keep order and lose nothing they
do not count (R280, R313, R316), and the mailbox counter (R280 L2). -/

namespace Sys2Proof.Machine

/-! ### One operation at the head of a run -/

section Runs

variable {i : Instr} {is : List Instr} {s t u : State}

theorem runAll_cons (hx : exec i s = .next u) : runAll (i :: is) s = runAll is u := by simp only [runAll, hx]

theorem exists_of_runAll_cons (h : runAll (i :: is) s = some t) : ∃ u, exec i s = .next u ∧ runAll is u = some t := by
  cases hx : exec i s with
  | next u => exact ⟨u, rfl, by rwa [runAll_cons hx] at h⟩
  | fault _ | refused _ => simp [runAll, hx] at h

theorem collect_cons (g : Instr → State → List Frame) (hx : exec i s = .next u) :
    collect g (i :: is) s = g i s ++ collect g is u := by simp only [collect, hx]

end Runs

/-! ### What an operation contributes to the streams -/

section Contributions

variable {i : Instr} {s t : State}

/-- Where no event completes nothing is pushed, emitted or received. -/
theorem Quiet.contributes_nothing (h : Quiet i s) :
    pushedAt i s = [] ∧ emittedAt i s = [] ∧ arrivedAt i s = [] ∧ ownArrivedAt i s = [] := by
  cases i with
  | scanEmit | txEnq _ | txIssue =>
    rcases h with hl | he | ha | ⟨_, _, hi, -⟩
    · simp [pushedAt, emittedAt, arrivedAt, ownArrivedAt, hl]
    · simp only [enabled] at he
      simp [pushedAt, emittedAt, arrivedAt, ownArrivedAt, he]
    · cases ha
    · cases hi
  | rxFrame a data =>
    obtain ⟨o, id⟩ := a
    have hnot : (legal s.cfg && s.rxEnabled o ⟨id, data⟩ && data.length == s.cfg.frameBytes) = false := by
      rcases h with hl | he | ha | ⟨_, _, hi, hlen⟩
      · simp [hl]
      · simp only [enabled, Bool.or_eq_false_iff] at he
        simp [he.1]
      · cases ha
      · cases hi
        simp [hlen]
    cases o <;> simp [pushedAt, emittedAt, arrivedAt, ownArrivedAt, hnot]
  | _ => simp [pushedAt, emittedAt, arrivedAt, ownArrivedAt]

/-- TX_ENQ names the frame its SCAN_EMIT pushes; every other row contributes as its event by computation. -/
theorem pushedAt_rowEvent (he : enabled i s = true) : pushedAt (rowEvent i) s = pushedAt i s := by
  cases i with
  | txEnq f =>
    have hname := he
    simp only [enabled, State.txEnqEnabled, Bool.and_eq_true, beq_iff_eq] at hname
    simp only [enabled] at he
    simp [rowEvent, pushedAt, he, hname.1, hname.2]
  | _ => rfl

theorem emittedAt_rowEvent : emittedAt (rowEvent i) s = emittedAt i s := by cases i <;> rfl

theorem arrivedAt_rowEvent : arrivedAt (rowEvent i) s = arrivedAt i s := by cases i <;> rfl

theorem ownArrivedAt_rowEvent : ownArrivedAt (rowEvent i) s = ownArrivedAt i s := by cases i <;> rfl

end Contributions

/-! ### The transmit path keeps order (R280 L1) -/

section TxOrder

variable {i : Instr} {is : List Instr} {s t : State}

theorem SameTxPath.txStream_eq (h : SameTxPath s t) : t.txStream = s.txStream := by
  simp only [State.txStream, h.txq, h.holdValid, h.holdFrame, h.busTx]

/-- Each event adds to the stream what it pushes: SCAN_EMIT its frame at the end; TX_DEQ and TX_ISSUE move a frame along
inside it. -/
theorem Completes.txStream_eq (hl : legal s.cfg = true) (hc : Completes s i t) :
    t.txStream = s.txStream ++ pushedAt i s := by
  cases hc with
  | capture m _ => simp [(s.capture_sameTxPath m).txStream_eq, pushedAt]
  | rxFrame a data _ _ => simp [(s.arrive_sameTxPath a.origin ⟨a.id, data⟩).txStream_eq, pushedAt]
  | decode _ _ => simp [s.decodeNext_sameTxPath.txStream_eq, pushedAt]
  | emit k he _ hframe =>
    have hpush : pushedAt .scanEmit s = [keyFrame s.cfg s.scFresh k] := by simp [pushedAt, hl, he, hframe]
    rw [hpush]
    exact (List.append_assoc _ _ _).symm
  | txDeq he hq =>
    simp only [State.txDeqEnabled, Bool.and_eq_true, Bool.not_eq_true'] at he
    simp [State.txStream, pushedAt, he.1.2, hq]
  | txIssue he =>
    simp only [State.txIssueEnabled, Bool.and_eq_true] at he
    simp [State.txStream, pushedAt, State.issue, State.emitBus, State.setMbox, State.clearHold, he.1.2]
  | commit _ | sample _ | txDone _ | rxDeq _ _ | display _ =>
    simp only [pushedAt, ite_self, List.append_nil]
    rfl

theorem exec_txStream (h : exec i s = .next t) : t.txStream = s.txStream ++ pushedAt i s := by
  rcases exec_completes h with ⟨hl, he, hc⟩ | ⟨hquiet, ht⟩
  · rw [hc.txStream_eq hl, pushedAt_rowEvent he]
  · obtain ⟨hpushed, -⟩ := hquiet.contributes_nothing
    rw [hpushed, List.append_nil]
    rcases ht with rfl | rfl <;> rfl

theorem runAll_txStream (h : runAll is s = some t) : t.txStream = s.txStream ++ collect pushedAt is s := by
  induction is generalizing s with
  | nil => cases h; simp [collect]
  | cons i is ih =>
    obtain ⟨u, hx, hrun⟩ := exists_of_runAll_cons h
    rw [ih hrun, exec_txStream hx, collect_cons pushedAt hx, List.append_assoc]

theorem State.busTx_isPrefix_txStream (s : State) : s.busTx <+: s.txStream := ⟨_, (List.append_assoc _ _ _).symm⟩

end TxOrder

/-- Settles O42: one operation adds to the stream what it pushes (`exec_txStream`), so a run adds what its operations
push, in order (`runAll_txStream`); the emitted frames are the front of the stream. -/
theorem transmitKeepsOrder : Obligations.TransmitKeepsOrder := by
  intro is s t h
  have hstream := runAll_txStream h
  exact ⟨hstream, hstream ▸ t.busTx_isPrefix_txStream⟩

/-! ### The frames in flight (R280 L2) -/

section InFlight

variable {i : Instr} {is : List Instr} {s t : State}

/-- A completion that the environment owes brings one frame back, an issue sends one out, and no other operation touches
the count. -/
theorem exec_inFlight (hl : legal s.cfg = true) (hb : s.mboxAvail ≤ s.cfg.mboxN) (h : exec i s = .next t) :
    t.cfg = s.cfg ∧ t.mboxAvail ≤ t.cfg.mboxN ∧
      t.inFlight =
        if i = .txDone ∧ s.halted = false then s.inFlight - 1
        else if i = .txIssue ∧ s.txIssueEnabled = true then s.inFlight + 1
        else s.inFlight := by
  have hw := exec_writes h
  have hcfg : t.cfg = s.cfg := hw.cfg_eq
  refine ⟨hcfg, ?_⟩
  simp only [State.inFlight, hcfg]
  split_ifs with hdone hissue
  · obtain ⟨rfl, hh⟩ := hdone
    cases h.symm.trans (txDoneEffect s hl hh)
    simp only
    omega
  · obtain ⟨rfl, hen⟩ := hissue
    cases h.symm.trans (exec_enabled rfl hl hen)
    have hne := State.mboxAvail_ne_zero_of_txIssueEnabled hen
    have hmbox : (effect .txIssue s).mboxAvail = s.mboxAvail - 1 := rfl
    rw [hmbox]
    omega
  · have hsame : t.mboxAvail = s.mboxAvail := by
      by_contra hne
      have hfree : enabled i s = true := by
        rcases exec_cases h with ⟨-, he, -⟩ | ⟨-, -, rfl⟩ | ⟨hill, -⟩
        · exact he
        · exact absurd rfl hne
        · simp [hl] at hill
      rcases hw.mboxAvail_writer hne with ⟨rfl, -⟩ | ⟨rfl, -⟩
      · exact hissue ⟨rfl, hfree⟩
      · exact hdone ⟨rfl, by simpa [enabled, State.eventEnabled] using hfree⟩
    rw [hsame]
    exact ⟨hb, rfl⟩

/-- The account of R347 goes on from the frames in flight after the first operation, which it counts as the counter
does. -/
theorem outstanding_cons {n : Nat} (hl : legal s.cfg = true) (hb : s.mboxAvail ≤ s.cfg.mboxN)
    (hx : exec i s = .next t) (h : outstanding (i :: is) s s.inFlight = some n) :
    outstanding is t t.inFlight = some n := by
  obtain ⟨-, -, hcount⟩ := exec_inFlight hl hb hx
  rw [hcount]
  simp only [outstanding, hx] at h
  split_ifs at h ⊢
  all_goals exact h

end InFlight

/-- Settles O43: the account and the counter change alike in each operation (`exec_inFlight`, `outstanding_cons`), by
induction over the run. -/
theorem inFlightIsOutstanding : Obligations.InFlightIsOutstanding := by
  intro is s t n hl hb hout hrun
  induction is generalizing s with
  | nil =>
    cases hrun
    cases hout
    exact ⟨rfl, Nat.sub_le _ _⟩
  | cons i is ih =>
    obtain ⟨u, hx, hrun'⟩ := exists_of_runAll_cons hrun
    obtain ⟨hcfg, hb', -⟩ := exec_inFlight hl hb hx
    exact ih u (hcfg ▸ hl) hb' (outstanding_cons hl hb hx hout) hrun'

/-! ### The receive path keeps order (R316 L1) -/

section RxOrder

variable {i : Instr} {is : List Instr} {s t : State}

theorem acceptedAt_rowEvent : acceptedAt (rowEvent i) s = acceptedAt i s := by
  simp only [acceptedAt, arrivedAt_rowEvent]

theorem Quiet.arrivedAt_eq_nil (h : Quiet i s) : arrivedAt i s = [] := by
  obtain ⟨-, -, harrived, -⟩ := h.contributes_nothing
  exact harrived

theorem Quiet.acceptedAt_eq_nil (h : Quiet i s) : acceptedAt i s = [] := by
  simp only [acceptedAt, h.arrivedAt_eq_nil, ite_self]

/-- The frame of an RX_FRAME that completes passes the filter when its identifier is the deployment's (R310). -/
theorem arrivedAt_rxFrame {a : Arrival} {data : List Byte} (hl : legal s.cfg = true)
    (hlen : data.length = s.cfg.frameBytes) (he : s.rxEnabled a.origin ⟨a.id, data⟩ = true) :
    arrivedAt (.rxFrame a data) s = if a.id = s.cfg.busId then [⟨a.id, data⟩] else [] := by
  obtain ⟨o, id⟩ := a
  simp only at he
  simp [arrivedAt, hl, hlen, he]

/-- Each event adds to the stream the frame it accepts: RX_FRAME at the end; a pop moves a frame along inside it. -/
theorem Completes.rxStream_eq (hl : legal s.cfg = true) (hc : Completes s i t) :
    t.rxStream = s.rxStream ++ acceptedAt i s := by
  cases hc with
  | capture m _ =>
    rw [s.capture_frame m]
    simp [State.rxStream, acceptedAt, arrivedAt]
  | rxFrame a data hlen he =>
    have harrived := arrivedAt_rxFrame hl hlen he
    obtain ⟨p, -, ⟨hid, harr⟩ | ⟨hid, hfull, harr⟩ | ⟨hid, hfull, harr⟩⟩ := s.arrive_cases a.origin ⟨a.id, data⟩
    · rw [acceptedAt, harrived, if_neg hid, ite_self, List.append_nil, harr]
      rfl
    · rw [acceptedAt, hfull, if_neg Bool.false_ne_true, harrived, if_pos hid, harr]
      exact (List.append_assoc _ _ _).symm
    · rw [acceptedAt, hfull, if_pos rfl, List.append_nil, harr]
      rfl
  | decode _ hq =>
    rw [State.decodeNext_frame hq]
    simp [State.rxStream, acceptedAt, arrivedAt, hq]
  | rxDeq _ hq => simp [State.rxStream, acceptedAt, arrivedAt, hq]
  | emit _ _ _ _ | commit _ | sample _ | txDeq _ _ | txIssue _ | txDone _ | display _ =>
    simp only [acceptedAt, arrivedAt, ite_self, List.append_nil]
    rfl

theorem exec_rxStream (h : exec i s = .next t) : t.rxStream = s.rxStream ++ acceptedAt i s := by
  rcases exec_completes h with ⟨hl, -, hc⟩ | ⟨hquiet, ht⟩
  · rw [hc.rxStream_eq hl, acceptedAt_rowEvent]
  · rw [hquiet.acceptedAt_eq_nil, List.append_nil]
    rcases ht with rfl | rfl <;> rfl

end RxOrder

/-- Settles O48: one operation adds to the stream the frame it accepts (`exec_rxStream`); by induction over the run. -/
theorem receiveKeepsOrder : Obligations.ReceiveKeepsOrder := by
  intro is s t h
  induction is generalizing s with
  | nil => cases h; simp [collect]
  | cons i is ih =>
    obtain ⟨u, hx, hrun⟩ := exists_of_runAll_cons h
    rw [ih u hrun, exec_rxStream hx, collect_cons acceptedAt hx, List.append_assoc]

/-! ### Every frame past the filter is enqueued or counted (R316 L2) -/

section RxDrop

variable {i : Instr} {is : List Instr} {s t : State}

/-- The drop counter goes up by one and stays at its largest value (R312). -/
theorem saturating_succ_toNat (n : BitVec 32) :
    (if n = BitVec.allOnes 32 then n else n + 1#32).toNat = min (n.toNat + 1) (2 ^ 32 - 1) := by
  have hlt := n.isLt
  split_ifs with hall
  · simp [hall]
  · have hne : n.toNat ≠ 2 ^ 32 - 1 := fun heq => hall (BitVec.eq_of_toNat_eq (by simpa using heq))
    rw [BitVec.toNat_add]
    simp only [BitVec.toNat_ofNat]
    omega

/-- The run from `s` to `t` dropped `d` of the frames that arrived, and counted them, saturating. -/
def CountsDrops (arrived accepted : List Frame) (s t : State) : Prop :=
  ∃ d, arrived.length = accepted.length + d ∧ t.rxDrop.toNat = min (s.rxDrop.toNat + d) (2 ^ 32 - 1)

theorem CountsDrops.of_same {l : List Frame} (h : t.rxDrop = s.rxDrop) : CountsDrops l l s t :=
  ⟨0, rfl, by have := s.rxDrop.isLt; rw [h]; omega⟩

theorem CountsDrops.append {a b a' b' : List Frame} {u : State} (h : CountsDrops a b s u)
    (h' : CountsDrops a' b' u t) : CountsDrops (a ++ a') (b ++ b') s t := by
  obtain ⟨d, hd, hcount⟩ := h
  obtain ⟨d', hd', hcount'⟩ := h'
  exact ⟨d + d', by simp only [List.length_append]; omega, by omega⟩

theorem Completes.countsDrops (hl : legal s.cfg = true) (hc : Completes s i t) :
    CountsDrops (arrivedAt i s) (acceptedAt i s) s t := by
  cases hc with
  | rxFrame a data hlen he =>
    have harrived := arrivedAt_rxFrame hl hlen he
    obtain ⟨p, -, ⟨hid, harr⟩ | ⟨hid, hfull, harr⟩ | ⟨hid, hfull, harr⟩⟩ := s.arrive_cases a.origin ⟨a.id, data⟩
    · rw [acceptedAt, harrived, if_neg hid, ite_self, harr]
      exact .of_same rfl
    · rw [acceptedAt, hfull, if_neg Bool.false_ne_true, harr]
      exact .of_same rfl
    · rw [acceptedAt, hfull, if_pos rfl, harrived, if_pos hid, harr]
      exact ⟨1, rfl, saturating_succ_toNat _⟩
  | capture m _ =>
    simp only [acceptedAt, arrivedAt, ite_self]
    rw [s.capture_frame m]
    exact .of_same rfl
  | decode _ hq =>
    simp only [acceptedAt, arrivedAt, ite_self]
    rw [State.decodeNext_frame hq]
    exact .of_same rfl
  | emit _ _ _ _ | commit _ | sample _ | txDeq _ _ | txIssue _ | txDone _ | rxDeq _ _ | display _ =>
    simp only [acceptedAt, arrivedAt, ite_self]
    exact .of_same rfl

theorem exec_countsDrops (h : exec i s = .next t) : CountsDrops (arrivedAt i s) (acceptedAt i s) s t := by
  rcases exec_completes h with ⟨hl, -, hc⟩ | ⟨hquiet, ht⟩
  · exact acceptedAt_rowEvent (i := i) ▸ arrivedAt_rowEvent (i := i) ▸ hc.countsDrops hl
  · rw [hquiet.acceptedAt_eq_nil, hquiet.arrivedAt_eq_nil]
    rcases ht with rfl | rfl <;> exact .of_same rfl

theorem runAll_countsDrops (h : runAll is s = some t) :
    CountsDrops (collect arrivedAt is s) (collect acceptedAt is s) s t := by
  induction is generalizing s with
  | nil => cases h; exact .of_same rfl
  | cons i is ih =>
    obtain ⟨u, hx, hrun⟩ := exists_of_runAll_cons h
    rw [collect_cons arrivedAt hx, collect_cons acceptedAt hx]
    exact (exec_countsDrops hx).append (ih hrun)

end RxDrop

/-- Settles O49: over the run the counter is the saturating sum of the drops (`runAll_countsDrops`), and one that is not
saturated is the sum itself. -/
theorem receiveAccountsEveryFrame : Obligations.ReceiveAccountsEveryFrame := by
  intro is s t h hlt
  obtain ⟨d, hd, hcount⟩ := runAll_countsDrops h
  omega

/-! ### Own frames arrive at most once for each emission (R313) -/

section OwnFrames

variable {i : Instr} {is : List Instr} {s t : State}

/-- The account of own frames from `s` to `t`: nothing moves without LOOPBACK, and with it what arrived and is still to
arrive is what was to arrive and was emitted. -/
def KeepsOwnAccount (arrived emitted : List Frame) (s t : State) : Prop :=
  t.cfg = s.cfg ∧ (s.cfg.loopback = false → arrived = [] ∧ t.ownPending = s.ownPending) ∧
    (s.cfg.loopback = true → (arrived ++ t.ownPending).Perm (s.ownPending ++ emitted))

theorem KeepsOwnAccount.of_same (hcfg : t.cfg = s.cfg) (h : t.ownPending = s.ownPending) :
    KeepsOwnAccount [] [] s t :=
  ⟨hcfg, fun _ => ⟨rfl, h⟩, fun _ => by simp [h]⟩

theorem KeepsOwnAccount.append {a e a' e' : List Frame} {u : State} (h : KeepsOwnAccount a e s u)
    (h' : KeepsOwnAccount a' e' u t) : KeepsOwnAccount (a ++ a') (e ++ e') s t := by
  obtain ⟨hcfg, hoff, hon⟩ := h
  obtain ⟨hcfg', hoff', hon'⟩ := h'
  refine ⟨hcfg'.trans hcfg, fun hl => ?_, fun hl => ?_⟩
  · obtain ⟨ha, hp⟩ := hoff hl
    obtain ⟨ha', hp'⟩ := hoff' (hcfg ▸ hl)
    exact ⟨by rw [ha, ha']; rfl, hp'.trans hp⟩
  · calc (a ++ a') ++ t.ownPending
      _ = a ++ (a' ++ t.ownPending) := List.append_assoc _ _ _
      List.Perm _ (a ++ (u.ownPending ++ e')) := (hon' (hcfg ▸ hl)).append_left a
      _ = (a ++ u.ownPending) ++ e' := (List.append_assoc _ _ _).symm
      List.Perm _ ((s.ownPending ++ e) ++ e') := (hon hl).append_right e'
      _ = s.ownPending ++ (e ++ e') := List.append_assoc _ _ _

/-- An issue enters its frame in the account, with LOOPBACK. -/
theorem keepsOwnAccount_issue (hl : legal s.cfg = true) (he : s.txIssueEnabled = true) :
    KeepsOwnAccount (ownArrivedAt .txIssue s) (emittedAt .txIssue s) s s.issue := by
  refine ⟨rfl, fun hloop => ⟨rfl, ?_⟩, fun hloop => ?_⟩
  · simp [State.issue_ownPending, hloop]
  · simp [State.issue_ownPending, hloop, ownArrivedAt, emittedAt, hl, he]

/-- An own frame's arrival takes its entry out, and only LOOPBACK enables it; another node's leaves the account. -/
theorem keepsOwnAccount_arrive {a : Arrival} {data : List Byte} (hl : legal s.cfg = true)
    (hlen : data.length = s.cfg.frameBytes) (he : s.rxEnabled a.origin ⟨a.id, data⟩ = true) :
    KeepsOwnAccount (ownArrivedAt (.rxFrame a data) s) (emittedAt (.rxFrame a data) s) s
      (s.arrive a.origin ⟨a.id, data⟩) := by
  have hacc : ∃ p, ((a.origin = .peer ∧ p = s.ownPending) ∨
      (a.origin = .own ∧ p = s.ownPending.erase ⟨a.id, data⟩)) ∧
        (s.arrive a.origin ⟨a.id, data⟩).ownPending = p ∧ (s.arrive a.origin ⟨a.id, data⟩).cfg = s.cfg := by
    obtain ⟨p, hp, ⟨-, harr⟩ | ⟨-, -, harr⟩ | ⟨-, -, harr⟩⟩ := s.arrive_cases a.origin ⟨a.id, data⟩ <;>
      exact ⟨p, hp, by rw [harr], by rw [harr]⟩
  obtain ⟨p, hp, hpend, hcfg⟩ := hacc
  obtain ⟨o, id⟩ := a
  rcases hp with ⟨rfl, rfl⟩ | ⟨rfl, rfl⟩
  · exact .of_same hcfg hpend
  · have harrived : ownArrivedAt (.rxFrame ⟨.own, id⟩ data) s = [⟨id, data⟩] := by
      simp only at he
      simp [ownArrivedAt, hl, hlen, he]
    simp only [State.rxEnabled, Bool.and_eq_true, List.contains_iff_mem] at he
    obtain ⟨⟨-, hloop⟩, hmem⟩ := he
    refine ⟨hcfg, fun hoff => by simp [hloop] at hoff, fun _ => ?_⟩
    rw [harrived, hpend]
    simpa [emittedAt] using (List.perm_cons_erase hmem).symm

theorem Completes.keepsOwnAccount (hl : legal s.cfg = true) (hc : Completes s i t) :
    KeepsOwnAccount (ownArrivedAt i s) (emittedAt i s) s t := by
  cases hc with
  | txIssue he => exact keepsOwnAccount_issue hl he
  | rxFrame a data hlen he => exact keepsOwnAccount_arrive hl hlen he
  | capture m _ =>
    rw [s.capture_frame m]
    exact .of_same rfl rfl
  | decode _ hq =>
    rw [State.decodeNext_frame hq]
    exact .of_same rfl rfl
  | emit _ _ _ _ | commit _ | sample _ | txDeq _ _ | txDone _ | rxDeq _ _ | display _ => exact .of_same rfl rfl

theorem exec_keepsOwnAccount (h : exec i s = .next t) : KeepsOwnAccount (ownArrivedAt i s) (emittedAt i s) s t := by
  rcases exec_completes h with ⟨hl, -, hc⟩ | ⟨hquiet, ht⟩
  · exact ownArrivedAt_rowEvent (i := i) ▸ emittedAt_rowEvent (i := i) ▸ hc.keepsOwnAccount hl
  · obtain ⟨-, hemitted, -, hown⟩ := hquiet.contributes_nothing
    rw [hemitted, hown]
    rcases ht with rfl | rfl <;> exact .of_same rfl rfl

theorem runAll_keepsOwnAccount (h : runAll is s = some t) :
    KeepsOwnAccount (collect ownArrivedAt is s) (collect emittedAt is s) s t := by
  induction is generalizing s with
  | nil => cases h; exact .of_same rfl rfl
  | cons i is ih =>
    obtain ⟨u, hx, hrun⟩ := exists_of_runAll_cons h
    rw [collect_cons ownArrivedAt hx, collect_cons emittedAt hx]
    exact (exec_keepsOwnAccount hx).append (ih hrun)

end OwnFrames

/-- Settles O46: the account holds of every operation (`exec_keepsOwnAccount`) and adds up over the run. -/
theorem ownFramesArriveOnce : Obligations.OwnFramesArriveOnce := by
  intro is s t h
  exact (runAll_keepsOwnAccount h).2

end Sys2Proof.Machine

/-! PROOFS. The liveness statement of 44_bus_tx.md: in a fair run what is in the transmit path is emitted (R280 L4,
R431). -/

namespace Sys2Proof.Machine

/-! ### A step emits a frame, or what waits for emission goes on waiting -/

/-- From `s` to `t` nothing was emitted, and what TX_DEQ and TX_ISSUE wait for was not lost. -/
structure TxWaits (s t : State) : Prop where
  busTx : t.busTx = s.busTx
  hold : s.txHoldValid = true → t.txHoldValid = true
  mbox : 0 < s.mboxAvail → 0 < t.mboxAvail
  queue : s.txq ≠ [] → t.txq ≠ [] ∨ t.txHoldValid = true

section TxProgress

variable {i : Instr} {s t : State}

theorem TxWaits.of_same (h : SameTxPath s t) (hm : t.mboxAvail = s.mboxAvail) : TxWaits s t where
  busTx := h.busTx
  hold := fun hv => h.holdValid.trans hv
  mbox := fun hpos => hm ▸ hpos
  queue := fun hq => .inl (h.txq ▸ hq)

/-- Only an issue emits. A completion with a mailbox to give leaves one, as there is at least one (R9). -/
theorem Completes.issue_or_txWaits (hm : 1 ≤ s.cfg.mboxN) (hc : Completes s i t) :
    t.busTx = s.busTx ++ [s.txHoldFrame] ∨ TxWaits s t := by
  cases hc with
  | txIssue _ => exact .inl rfl
  | emit _ _ _ _ => exact .inr ⟨rfl, id, id, fun _ => .inl (List.append_ne_nil_of_right_ne_nil _ (List.cons_ne_nil _ _))⟩
  | txDeq _ _ => exact .inr ⟨rfl, fun _ => rfl, id, fun _ => .inr rfl⟩
  | txDone _ => exact .inr ⟨rfl, id, fun _ => Nat.lt_min.mpr ⟨Nat.succ_pos _, hm⟩, .inl⟩
  | capture m _ =>
    have hmbox := congrArg State.mboxAvail (s.capture_frame m)
    exact .inr (.of_same (s.capture_sameTxPath m) hmbox)
  | decode _ hq =>
    have hmbox := congrArg State.mboxAvail (State.decodeNext_frame hq)
    exact .inr (.of_same s.decodeNext_sameTxPath hmbox)
  | rxFrame a data _ _ =>
    refine .inr (.of_same (s.arrive_sameTxPath _ _) ?_)
    obtain ⟨p, -, ⟨-, harr⟩ | ⟨-, -, harr⟩ | ⟨-, -, harr⟩⟩ := s.arrive_cases a.origin ⟨a.id, data⟩ <;> rw [harr]
  | commit _ | sample _ | rxDeq _ _ | display _ => exact .inr ⟨rfl, id, id, .inl⟩

theorem exec_issue_or_txWaits (hm : 1 ≤ s.cfg.mboxN) (h : exec i s = .next t) :
    t.busTx = s.busTx ++ [s.txHoldFrame] ∨ TxWaits s t := by
  rcases exec_completes h with ⟨-, -, hc⟩ | ⟨-, rfl | rfl⟩
  · exact hc.issue_or_txWaits hm
  · exact .inr ⟨rfl, id, id, .inl⟩
  · exact .inr ⟨rfl, id, id, .inl⟩

end TxProgress

/-! ### Fair runs -/

section Fair

variable {σ : Nat → State} {ev : Nat → Instr}

/-- A run keeps the configuration and the halted bit of its start. -/
theorem FairRun.fixed (hf : FairRun σ ev) (n : Nat) : (σ n).cfg = (σ 0).cfg ∧ (σ n).halted = (σ 0).halted := by
  induction n with
  | zero => exact ⟨rfl, rfl⟩
  | succ n ih =>
    have hw := exec_writes (hf.steps n)
    exact ⟨hw.cfg_eq.trans ih.1, hw.halted_eq.trans ih.2⟩

/-- What every step from `n` on keeps, and some state from `n` on has, every later state has. -/
theorem forall_of_step {P : State → Prop} {n a : Nat} (hstep : ∀ m, n ≤ m → P (σ m) → P (σ (m + 1)))
    (hna : n ≤ a) (ha : P (σ a)) (m : Nat) (hm : a ≤ m) : P (σ m) := by
  induction m, hm using Nat.le_induction with
  | base => exact ha
  | succ m hm ih => exact hstep m (hna.trans hm) ih

theorem FairRun.txStream_isPrefix (hf : FairRun σ ev) {n m : Nat} (hnm : n ≤ m) :
    (σ n).txStream <+: (σ m).txStream := by
  induction m, hnm using Nat.le_induction with
  | base => exact List.prefix_rfl
  | succ m _ ih => exact ih.trans ⟨_, (exec_txStream (hf.steps m)).symm⟩

variable (hf : FairRun σ ev) (hl : legal (σ 0).cfg = true) (hh : (σ 0).halted = false) {n : Nat}

include hf hl in
theorem FairRun.one_le_mboxN (m : Nat) : 1 ≤ (σ m).cfg.mboxN := by
  rw [(hf.fixed m).1]
  simp only [legal, busLegal, Bool.and_eq_true, decide_eq_true_eq] at hl
  omega

include hf hl hh in
/-- A held frame gets a mailbox: one is free, or the TX_DONE duty returns one (R347). -/
theorem FairRun.exists_mbox (a : Nat) : ∃ b, a ≤ b ∧ 0 < (σ b).mboxAvail := by
  by_cases hfree : 0 < (σ a).mboxAvail
  · exact ⟨a, le_rfl, hfree⟩
  · have hmbox := hf.one_le_mboxN hl a
    obtain ⟨m, ham, hdone⟩ := hf.doneDuty a (by omega)
    have hcfg := (hf.fixed m).1
    have hx := hf.steps m
    rw [hdone, txDoneEffect _ (hcfg ▸ hl) ((hf.fixed m).2.trans hh)] at hx
    have hnext : (σ (m + 1)).mboxAvail = min ((σ m).mboxAvail + 1) (σ m).cfg.mboxN := by
      rw [← Host.Outcome.next.inj hx]
    have hmboxm := hf.one_le_mboxN hl m
    exact ⟨m + 1, by omega, by omega⟩

include hf hl hh in
/-- From a point after which nothing is emitted, no frame is ever held: the register and a mailbox would stay, and the
fair TX_ISSUE would emit it. -/
theorem FairRun.not_held (hw : ∀ m, n ≤ m → TxWaits (σ m) (σ (m + 1))) (a : Nat) (ha : n ≤ a) :
    (σ a).txHoldValid = false := by
  refine Bool.eq_false_iff.mpr fun hheld => ?_
  obtain ⟨b, hab, hmbox⟩ := hf.exists_mbox hl hh a
  have hb : (σ b).txHoldValid = true ∧ 0 < (σ b).mboxAvail :=
    ⟨forall_of_step (P := (·.txHoldValid = true)) (fun m hm => (hw m hm).hold) ha hheld b hab, hmbox⟩
  have hready : ∀ m, b ≤ m → (σ m).txHoldValid = true ∧ 0 < (σ m).mboxAvail :=
    forall_of_step (P := fun s => s.txHoldValid = true ∧ 0 < s.mboxAvail)
      (fun m hm h => ⟨(hw m hm).hold h.1, (hw m hm).mbox h.2⟩) (ha.trans hab) hb
  have hen : ∀ m, b ≤ m → (σ m).txIssueEnabled = true := by
    intro m hm
    obtain ⟨hvalid, hpos⟩ := hready m hm
    simp [State.txIssueEnabled, State.mboxNone, (hf.fixed m).2, hh, hvalid, Nat.pos_iff_ne_zero.mp hpos]
  obtain ⟨m, hbm, hissue⟩ := hf.txIssue b hen
  have hx := hf.steps m
  rw [beq_iff_eq.mp hissue, exec_enabled (i := .txIssue) rfl ((hf.fixed m).1 ▸ hl) (hen m hbm)] at hx
  have hbus : (σ (m + 1)).busTx = (σ m).busTx ++ [(σ m).txHoldFrame] := by
    rw [← Host.Outcome.next.inj hx]
    rfl
  have hsame := (hw m (ha.trans (hab.trans hbm))).busTx
  simp [hbus] at hsame

include hf hl hh in
/-- While a frame is held or queued, the run goes on to emit one: else the queue would stay, no frame would be held
(`FairRun.not_held`), and the fair TX_DEQ would take one. -/
theorem FairRun.exists_emission (hpend : (σ n).txHoldValid = true ∨ (σ n).txq ≠ []) :
    ∃ m, n ≤ m ∧ (σ n).busTx.length < (σ m).busTx.length := by
  by_contra hnone
  push Not at hnone
  have hbus (m : Nat) (hm : n ≤ m) : (σ n).busTx.length ≤ (σ m).busTx.length := by
    induction m, hm using Nat.le_induction with
    | base => exact le_rfl
    | succ m hm ih =>
      rcases exec_issue_or_txWaits (hf.one_le_mboxN hl m) (hf.steps m) with hissue | hwaits
      · rw [hissue, List.length_append]; omega
      · rw [hwaits.busTx]; exact ih
  have hw (m : Nat) (hm : n ≤ m) : TxWaits (σ m) (σ (m + 1)) := by
    rcases exec_issue_or_txWaits (hf.one_le_mboxN hl m) (hf.steps m) with hissue | hwaits
    · have hlen := congrArg List.length hissue
      have hle := hnone (m + 1) (by omega)
      have hge := hbus m hm
      simp only [List.length_append, List.length_singleton] at hlen
      omega
    · exact hwaits
  have hfree (m : Nat) (hm : n ≤ m) : (σ m).txHoldValid = false := hf.not_held hl hh hw m hm
  have hqueue : ∀ m, n ≤ m → (σ m).txq ≠ [] :=
    forall_of_step (P := (·.txq ≠ []))
      (fun m hm hq => ((hw m hm).queue hq).resolve_right (by simp [hfree (m + 1) (by omega)]))
      le_rfl (hpend.resolve_left (by simp [hfree n le_rfl]))
  obtain ⟨m, hnm, hdeq⟩ := hf.txDeq n fun m hm =>
    (State.txDeqEnabled_iff ((hf.fixed m).2.trans hh)).mpr ⟨hfree m hm, hqueue m hm⟩
  obtain ⟨f, q, hq⟩ := List.exists_cons_of_ne_nil (hqueue m hnm)
  have hx := hf.steps m
  rw [beq_iff_eq.mp hdeq,
    (txDeqEffect _ ((hf.fixed m).1 ▸ hl) ((hf.fixed m).2.trans hh)).1 f q hq (hfree m hnm)] at hx
  have hheld : (σ (m + 1)).txHoldValid = true := by rw [← Host.Outcome.next.inj hx]
  simp [hfree (m + 1) (by omega)] at hheld

/-- What is in the transmit path and not yet emitted is held or queued. -/
theorem State.pending_of_length_lt {s : State} (h : s.busTx.length < s.txStream.length) :
    s.txHoldValid = true ∨ s.txq ≠ [] := by
  by_contra hnone
  push Not at hnone
  simp [State.txStream, hnone.1, hnone.2] at h

include hf hl hh in
/-- The port catches up with any frame of the path, by induction on how many are still before it. -/
theorem FairRun.busTx_reaches (k : Nat) {m : Nat} (hnm : n ≤ m)
    (hk : (σ n).txStream.length ≤ (σ m).busTx.length + k) :
    ∃ m', m ≤ m' ∧ (σ n).txStream.length ≤ (σ m').busTx.length := by
  induction k generalizing m with
  | zero => exact ⟨m, le_rfl, hk⟩
  | succ k ih =>
    by_cases hdone : (σ n).txStream.length ≤ (σ m).busTx.length
    · exact ⟨m, le_rfl, hdone⟩
    · have hstream := (hf.txStream_isPrefix hnm).length_le
      obtain ⟨m₁, hm₁, hlt⟩ := hf.exists_emission hl hh (n := m) (State.pending_of_length_lt (by omega))
      obtain ⟨m', hm', hle⟩ := ih (hnm.trans hm₁) (by omega)
      exact ⟨m', hm₁.trans hm', hle⟩

end Fair

/-- Settles O44: the port goes on to hold as many frames as the path did (`FairRun.busTx_reaches`); both are the front of
the later stream, so they are the same frames in the same order. -/
theorem queuedFramesAreEmitted : Obligations.QueuedFramesAreEmitted := by
  intro σ ev hf hl hh n
  obtain ⟨m, hnm, hlen⟩ := hf.busTx_reaches hl hh (σ n).txStream.length (le_refl n) (Nat.le_add_left _ _)
  exact ⟨m, hnm, List.prefix_of_prefix_length_le (hf.txStream_isPrefix hnm) (σ m).busTx_isPrefix_txStream hlen⟩

end Sys2Proof.Machine

/-! PROOFS. The statements of 41_knob_decoder.md and 42_key_scanner.md about the decoder's rows (R101, R143, R151), the
scanner's enabling and whole cycles (R180, R185, R191), the store pair (R72), polarity (R190), and the first steps after
reset (R412); and TX_ENQ as the SCAN_EMIT that pushes its frame (R271). -/

namespace Sys2Proof.Machine

/-! ### The rows of the decoder are captures (R101, R140) -/

section DecoderRows

variable {s : State} {u : KnobUpdate} {p code : PhaseCode} {n : Knob}

/-- A decoder row of a knob that exists completes where it is enabled. -/
theorem State.gate_onKnob_enabled {k : Nat} {en : Bool} (t : State) (hl : legal s.cfg = true) (hk : k < s.cfg.nKnobs)
    (he : en = true) : s.gate (s.onKnob k (s.run en t)) = .next t := by
  rw [State.onKnob, if_pos hk]
  exact State.gate_run_enabled t hl he

/-- A decoder row of a knob that exists waits where it is not enabled. -/
theorem State.gate_onKnob_hold {k : Nat} {en : Bool} (t : State) (hl : legal s.cfg = true) (hk : k < s.cfg.nKnobs)
    (he : en = false) : s.gate (s.onKnob k (s.run en t)) = .next s := by
  rw [State.onKnob, if_pos hk]
  exact State.gate_run_hold t hl he

theorem State.captureEnabled_iff (hh : s.halted = false) : s.captureEnabled = true ↔ s.scBusy = false := by
  simp [State.captureEnabled, hh]

theorem State.qdStepEnabled_iff (hh : s.halted = false) :
    s.qdStepEnabled u code = true ↔
      s.scBusy = false ∧ phaseCode s.cfg (assemble s.cfg u.levels) u.knob = code := by
  simp [State.qdStepEnabled, State.captureEnabled, hh]

theorem State.transitionEnabled_iff (hh : s.halted = false) (hn : s.knobs[u.knob]? = some n) :
    s.transitionEnabled u p code = true ↔
      s.scBusy = false ∧ n.prev = p ∧ phaseCode s.cfg (assemble s.cfg u.levels) u.knob = code := by
  rw [State.transitionEnabled, Bool.and_eq_true, State.qdStepEnabled_iff hh, State.knob_of_getElem hn, beq_iff_eq]
  tauto

/-- The capture of a row moves the row's knob by the class of its transition (R145 to R148). -/
theorem State.capture_moves_knob (hk : u.knob < s.cfg.nKnobs) (hn : s.knobs[u.knob]? = some n)
    (hr : n.rot ≤ s.cfg.rotMax) (hcode : phaseCode s.cfg (assemble s.cfg u.levels) u.knob = code) :
    ∃ n', (s.capture u.levels).knobs[u.knob]? = some n' ∧ knobEffect s.cfg n code n' := by
  refine ⟨_, State.capture_knob u.levels hk hn, ?_⟩
  rw [State.capture_scFresh, hcode]
  exact Knob.step_effect hr code

/-- The 16 rows as data are the transitions they run. -/
theorem exec_of_transition {i : Instr} (h : i.transition = some (u, p, code)) : exec i s = s.transition u p code := by
  cases i <;> cases h <;> rfl

end DecoderRows

/-- Settles O20: the row's enabling is an idle scanner with its code in the snapshot (`State.qdStepEnabled_iff`), and its
effect is the capture's. -/
theorem qdStepRowEffect : Obligations.QdStepRowEffect := by
  intro s u code n hl hh hk hn hr
  refine ⟨fun hb hcode => ?_, fun hwait => State.gate_onKnob_hold _ hl hk (Bool.eq_false_iff.mpr fun hen => ?_)⟩
  · obtain ⟨n', hknob, heff⟩ := State.capture_moves_knob hk hn hr hcode
    exact ⟨_, n', State.gate_onKnob_enabled _ hl hk ((State.qdStepEnabled_iff hh).mpr ⟨hb, hcode⟩),
      exec_scanCapture_idle _ hl hh hb, hknob, heff⟩
  · obtain ⟨hb, hcode⟩ := (State.qdStepEnabled_iff hh).mp hen
    rcases hwait with hbusy | hother
    · simp [hb] at hbusy
    · exact hother hcode

/-- Settles O21: as O20, with the code the knob last sampled (`State.transitionEnabled_iff`). -/
theorem transitionRowsByClass : Obligations.TransitionRowsByClass := by
  intro s i u p code n hi hl hh hk hn hr
  rw [exec_of_transition hi]
  refine ⟨fun hb hp hcode => ?_, fun hwait => State.gate_onKnob_hold _ hl hk (Bool.eq_false_iff.mpr fun hen => ?_)⟩
  · obtain ⟨n', hknob, heff⟩ := State.capture_moves_knob hk hn hr hcode
    exact ⟨_, n', State.gate_onKnob_enabled _ hl hk ((State.transitionEnabled_iff hh hn).mpr ⟨hb, hp, hcode⟩),
      exec_scanCapture_idle _ hl hh hb, hknob, heff⟩
  · obtain ⟨hb, hp, hcode⟩ := (State.transitionEnabled_iff hh hn).mp hen
    rcases hwait with hbusy | hprev | hother
    · simp [hb] at hbusy
    · exact hprev hp
    · exact hother hcode

/-! ### A forward turn (R151 L5) -/

/-- An INC transition raises the rotation by one, saturating, with direction +1 and no condition. -/
theorem State.stepKnob_setKnob_inc {s : State} {k r : Nat} {p code : PhaseCode} {d : Dir} (hk : k < s.knobs.length)
    (hinc : transClass s.cfg p code = .inc) :
    (s.setKnob k ⟨p, d, r⟩).stepKnob k code = s.setKnob k ⟨code, .plus, min (r + 1) s.cfg.rotMax⟩ := by
  have hknob : (s.setKnob k ⟨p, d, r⟩).knob k = ⟨p, d, r⟩ := State.knob_of_getElem (by simp [hk])
  have hsum : constrainRotation s.cfg (r + 1) = min (r + 1) s.cfg.rotMax := constrainRotation_add 1
  rw [State.stepKnob_eq, State.stepClass_eq, hknob, Knob.step_eq]
  simp [State.setKnob, hinc, hsum, classDir]

/-- Settles O23: each of the four edges is an INC of the default table (`State.stepKnob_setKnob_inc`), and the four
saturating additions are one. -/
theorem forwardTurnAddsFour : Obligations.ForwardTurnAddsFour := by
  intro s k r d hcls hn hr
  obtain ⟨hk, hget⟩ := List.getElem?_eq_some_iff.mp hn
  have hself : s.setKnob k ⟨0b00#2, d, r⟩ = s := by rw [State.setKnob, ← hget, List.set_getElem_self]
  have hinc (p code : PhaseCode) (h : defaultQdClass.getD (4 * p.toNat + code.toNat) .hold = .inc) :
      transClass s.cfg p code = .inc := by rw [transClass, classOf, hcls, h]
  have hturn : min (min (min (min (r + 1) s.cfg.rotMax + 1) s.cfg.rotMax + 1) s.cfg.rotMax + 1) s.cfg.rotMax =
      min (r + 4) s.cfg.rotMax := by omega
  conv_lhs => rw [← hself]
  rw [State.stepKnob_setKnob_inc hk (hinc _ _ rfl), State.stepKnob_setKnob_inc hk (hinc _ _ rfl),
    State.stepKnob_setKnob_inc hk (hinc _ _ rfl), State.stepKnob_setKnob_inc hk (hinc _ _ rfl), hturn]
  rfl

/-! ### Which scanner step runs (R180, R185) -/

section Enabling

variable {s : State}

theorem exec_scanCapture_busy (m : Nat) (hl : legal s.cfg = true) (hb : s.scBusy = true) :
    exec (.scanCapture m) s = .next s :=
  State.gate_run_hold _ hl (by simp [State.captureEnabled, hb])

theorem exec_scanEmit_hold (hl : legal s.cfg = true) (hh : s.halted = false)
    (h : s.scBusy = false ∨ s.scEmit = 0 ∨ s.txq.length = s.cfg.txqCap) : exec .scanEmit s = .next s := by
  refine State.gate_run_hold _ hl (Bool.eq_false_iff.mpr fun hen => ?_)
  obtain ⟨hb, he, hroom⟩ := (State.emitEnabled_iff hh).mp hen
  rcases h with hidle | hzero | hfull
  · simp [hb] at hidle
  · exact he hzero
  · exact hroom hfull

theorem exec_scanCommit_hold (hl : legal s.cfg = true) (hh : s.halted = false)
    (h : s.scBusy = false ∨ s.scEmit ≠ 0) : exec .scanCommit s = .next s := by
  refine State.gate_run_hold _ hl (Bool.eq_false_iff.mpr fun hen => ?_)
  obtain ⟨hb, he⟩ := (State.commitEnabled_iff hh).mp hen
  rcases h with hidle | hpend
  · simp [hb] at hidle
  · exact hpend he

end Enabling

/-- Settles O28: the three enablings are one lemma each, and so are the three holds. -/
theorem scannerEnabling : Obligations.ScannerEnabling := by
  intro s m hl hh
  exact ⟨State.captureEnabled_iff hh, State.emitEnabled_iff hh, State.commitEnabled_iff hh,
    exec_scanCapture_busy m hl,
    fun hidle => ⟨exec_scanEmit_hold hl hh (.inl hidle), exec_scanCommit_hold hl hh (.inl hidle)⟩,
    fun _ hnot => exec_scanEmit_hold hl hh (.inr hnot), fun _ hpend => exec_scanCommit_hold hl hh (.inr hpend)⟩

/-- Settles O26: a full FIFO with a frame pending holds all three steps; the FIFO of a legal configuration is then not
empty, so TX_DEQ takes its head (`txDeqEffect`) and leaves room for the emit. -/
theorem emitHoldsOnFullFifo : Obligations.EmitHoldsOnFullFifo := by
  intro s hl hh hb he hfull
  refine ⟨fun m => exec_scanCapture_busy m hl hb, exec_scanEmit_hold hl hh (.inr (.inr hfull)),
    exec_scanCommit_hold hl hh (.inr he), fun hv => ?_⟩
  have hcap : 1 ≤ s.cfg.txqCap := by
    simp only [legal, busLegal, Bool.and_eq_true, decide_eq_true_eq] at hl
    omega
  obtain ⟨f, q, hq⟩ := List.exists_cons_of_length_pos (l := s.txq) (by omega)
  refine ⟨_, (txDeqEffect s hl hh).1 f q hq hv, by rw [hq]; rfl, (State.emitEnabled_iff ?_).mpr ⟨hb, he, ?_⟩⟩
  · exact hh
  · rw [hq, List.length_cons] at hfull
    simp only
    omega

/-! ### A whole cycle (R126, R191) -/

theorem runAll_append (is js : List Instr) (s : State) :
    runAll (is ++ js) s = (runAll is s).bind (runAll js) := by
  induction is generalizing s with
  | nil => rfl
  | cons i is ih =>
    cases hx : exec i s with
    | next u => rw [List.cons_append, runAll_cons hx, runAll_cons hx, ih]
    | fault _ | refused _ => simp [runAll, hx]

/-- The keys whose bit is set in an edge mask, in ascending order. -/
def pendingKeys (c : Config) (e : Nat) : List Nat := (List.range c.nNoteKeys).filter fun i => e.testBit i

section Cycle

variable {c : Config} {e : Nat}

theorem popcount_eq_length (n e : Nat) : popcount n e = ((List.range n).filter fun i => e.testBit i).length := by
  induction n with
  | zero => rfl
  | succ n ih => cases hbit : e.testBit n <;> simp [popcount, ih, List.range_succ, hbit]

theorem mem_pendingKeys (he : e < 2 ^ c.nNoteKeys) (i : Nat) : i ∈ pendingKeys c e ↔ e.testBit i = true := by
  simp only [pendingKeys, List.mem_filter, List.mem_range, and_iff_right_iff_imp]
  exact fun hbit => (Nat.pow_lt_pow_iff_right Nat.one_lt_two).mp ((Nat.ge_two_pow_of_testBit hbit).trans_lt he)

theorem eq_zero_of_pendingKeys_eq_nil (he : e < 2 ^ c.nNoteKeys) (h : pendingKeys c e = []) : e = 0 := by
  refine Nat.eq_of_testBit_eq fun i => ?_
  rw [Nat.zero_testBit]
  exact Bool.eq_false_iff.mpr fun hbit => List.not_mem_nil (h ▸ (mem_pendingKeys he i).mpr hbit)

/-- The first pending key is the lowest set bit, and clearing it leaves the others. -/
theorem pendingKeys_cons {k : Nat} {ks : List Nat} (he : e < 2 ^ c.nNoteKeys) (h : pendingKeys c e = k :: ks) :
    e.testBit k = true ∧ (∀ i, e.testBit i = true → k ≤ i) ∧ pendingKeys c (e ^^^ 2 ^ k) = ks := by
  have hbit : e.testBit k = true := (mem_pendingKeys he k).mp (h ▸ List.mem_cons_self)
  have hsorted : (k :: ks).Pairwise (· < ·) := h ▸ List.pairwise_lt_range.filter _
  have hlt : ∀ j ∈ ks, k < j := (List.pairwise_cons.mp hsorted).1
  refine ⟨hbit, fun i hi => ?_, ?_⟩
  · rcases List.mem_cons.mp (h ▸ (mem_pendingKeys he i).mpr hi) with rfl | hmem
    · exact le_rfl
    · exact (hlt i hmem).le
  · calc pendingKeys c (e ^^^ 2 ^ k)
      _ = (pendingKeys c e).filter fun j => decide (j ≠ k) := by
        simp only [pendingKeys, List.filter_filter, testBit_clear _ _ _ hbit, Bool.and_comm]
      _ = ks := by
        rw [h, List.filter_cons_of_neg (by simp)]
        exact List.filter_eq_self.mpr fun j hj => decide_eq_true (hlt j hj).ne'

/-- With room for them, as many emits as there are pending keys push the frame of each, in ascending order, and leave
none pending. -/
theorem runAll_emits (ks : List Nat) {s : State} (hl : legal s.cfg = true) (hh : s.halted = false)
    (hb : s.scBusy = true) (he : s.scEmit < 2 ^ s.cfg.nNoteKeys) (hks : pendingKeys s.cfg s.scEmit = ks)
    (hroom : s.txq.length + ks.length ≤ s.cfg.txqCap) :
    runAll (List.replicate ks.length .scanEmit) s =
      some { s with scEmit := 0, txq := s.txq ++ ks.map (keyFrame s.cfg s.scFresh) } := by
  induction ks generalizing s with
  | nil =>
    have hzero : s.scEmit = 0 := eq_zero_of_pendingKeys_eq_nil he hks
    rw [List.map_nil, List.append_nil, ← hzero]
    rfl
  | cons k ks ih =>
    obtain ⟨hbit, hlow, hrest⟩ := pendingKeys_cons he hks
    rw [List.length_cons] at hroom
    rcases s.emit_cases with ⟨hzero, -, -⟩ | ⟨j, hbitj, hlowj, -, hemit⟩
    · simp [hzero] at hbit
    obtain rfl : j = k := by
      refine le_antisymm (Nat.le_of_not_lt fun hlt => ?_) (hlow j hbitj)
      simp [hlowj k hlt] at hbit
    have hx : exec .scanEmit s = .next s.emit :=
      exec_enabled rfl hl ((State.emitEnabled_iff hh).mpr ⟨hb, fun hzero => by simp [hzero] at hbit, by omega⟩)
    rw [hemit] at hx
    have hmask : s.scEmit ^^^ 2 ^ j < 2 ^ s.cfg.nNoteKeys :=
      Nat.xor_lt_two_pow he ((Nat.ge_two_pow_of_testBit hbit).trans_lt he)
    have hnext := ih (s := (s.enqueueTx (keyFrame s.cfg s.scFresh j)).setEmit (s.scEmit ^^^ 2 ^ j)) hl hh hb hmask
      hrest (by simp; omega)
    rw [List.length_cons, List.replicate_succ, runAll_cons hx, hnext, List.map_cons, List.append_cons]
    rfl

/-- The keys whose pressed state changed are the pending keys of the capture's edge mask (R182). -/
theorem pendingKeys_edgeMask (c : Config) (f prev : Nat) :
    pendingKeys c (edgeMask c f prev) =
      (List.range c.nNoteKeys).filter fun i => pressed c f i != pressed c prev i := by
  refine List.filter_congr fun i hi => ?_
  simp [testBit_edgeMask, List.mem_range.mp hi]

end Cycle

section CaptureKeeps

variable (s : State) (m : Nat)

theorem State.capture_cfg : (s.capture m).cfg = s.cfg := by rw [s.capture_frame m]
theorem State.capture_txq : (s.capture m).txq = s.txq := by rw [s.capture_frame m]
theorem State.capture_halted : (s.capture m).halted = s.halted := by rw [s.capture_frame m]

end CaptureKeeps

/-- Settles O29: the capture leaves the changed keys pending (`pendingKeys_edgeMask`), the emits push their frames
(`runAll_emits`), as many as the mask has bits (`popcount_eq_length`), and the commit publishes the pair. -/
theorem cycleSendsEachEdgeOnce : Obligations.CycleSendsEachEdgeOnce := by
  intro s m hl hh hb changed hroom
  have hcapture : exec (.scanCapture m) s = .next (s.capture m) := exec_scanCapture_idle m hl hh hb
  have hcfg := s.capture_cfg m
  have htxq := s.capture_txq m
  have hhalted : (s.capture m).halted = false := (s.capture_halted m).trans hh
  have hmask : (s.capture m).scEmit = edgeMask s.cfg (assemble s.cfg m) s.scPrev := rfl
  have hkeys : pendingKeys (s.capture m).cfg (s.capture m).scEmit = changed := by
    rw [hcfg, hmask, pendingKeys_edgeMask]
  have hcount : popcount s.cfg.nNoteKeys (edgeMask s.cfg (assemble s.cfg m) s.scPrev) = changed.length := by
    rw [popcount_eq_length, ← hkeys, hcfg, hmask, pendingKeys]
  have hemits := runAll_emits changed (s := s.capture m) (hcfg ▸ hl) hhalted rfl
    (by rw [hcfg, hmask]; exact edgeMask_lt _ _ _) hkeys (by rw [hcfg, htxq]; exact hroom)
  have hcommit := commitEffect { s.capture m with
      scEmit := 0
      txq := (s.capture m).txq ++ changed.map (keyFrame (s.capture m).cfg (s.capture m).scFresh) }
    (hcfg ▸ hl) hhalted rfl rfl
  have hrun : runAll (s.cycleLines m) s =
      (runAll (List.replicate changed.length .scanEmit) (s.capture m)).bind (runAll [.scanCommit]) := by
    rw [State.cycleLines, runAll_cons hcapture, runAll_append, hcount]
  rw [hemits, Option.bind_some, runAll_cons hcommit] at hrun
  refine ⟨_, hrun, ?_, rfl, rfl, rfl, rfl⟩
  simp only [hcfg, htxq]
  rfl

/-! ### The store pair (R72) -/

section StorePair

variable {i : Instr} {s t : State}

/-- In a cycle the step size is the one selected from the fresh snapshot: the capture sets both, and nothing else writes
either. -/
theorem exec_scStep_selected (hinv : s.scBusy = true → s.scStep = selectedStep s.cfg s.scFresh)
    (h : exec i s = .next t) : t.scBusy = true → t.scStep = selectedStep t.cfg t.scFresh := by
  have hw := exec_writes h
  by_cases hsame : sameSc s t
  · obtain ⟨-, hbusy, hfresh, hstep, -⟩ := hsame
    rw [hbusy, hfresh, hstep, hw.cfg_eq]
    exact hinv
  rcases hw.sc_writer hsame with ⟨m, hx⟩ | hx | rfl
  · rcases exec_cases hx with ⟨-, -, rfl⟩ | ⟨-, -, rfl⟩ | ⟨-, rfl⟩
    · intro _
      rw [hw.cfg_eq]
      exact s.capture_scStep m
    · exact hinv
    · exact hinv
  · rcases exec_cases hx with ⟨-, -, rfl⟩ | ⟨-, -, rfl⟩ | ⟨-, rfl⟩
    · rcases s.emit_cases with ⟨-, -, he⟩ | ⟨k, -, -, -, he⟩ <;> (rw [effect, he]; exact hinv)
    · exact hinv
    · exact hinv
  · rcases exec_cases h with ⟨-, -, rfl⟩ | ⟨-, -, rfl⟩ | ⟨-, rfl⟩
    · exact fun hbusy => Bool.noConfusion hbusy
    · exact hinv
    · exact hinv

end StorePair

/-- Settles O30: the pair in the scanner is of one snapshot (`exec_scStep_selected`), and the writer of `ss_inputs` is
the commit alone (`Writes.ssInputs_writer`), which publishes that pair in an enabled step. -/
theorem storePairIsOfOneCycle : Obligations.StorePairIsOfOneCycle := by
  intro s t i hinv h
  refine ⟨exec_scStep_selected hinv h, fun hne => ?_⟩
  obtain rfl := (exec_writes h).ssInputs_writer hne
  refine ⟨rfl, ?_⟩
  rcases exec_cases h with ⟨-, he, rfl⟩ | ⟨-, -, rfl⟩ | ⟨-, rfl⟩
  · have hbusy : s.scBusy = true := by
      simp only [enabled, State.commitEnabled, Bool.and_eq_true] at he
      exact he.1.2
    exact ⟨rfl, hinv hbusy⟩
  · exact absurd rfl hne
  · exact absurd rfl hne

/-! ### Polarity (R190) -/

/-- The configuration with the other polarity. -/
def inverted (c : Config) : Config := { c with activeLow := !c.activeLow }

section Polarity

variable {c : Config} {f f' p p' : Nat}

theorem pressed_inverted {i : Nat} (h : f'.testBit i = !f.testBit i) : pressed (inverted c) f' i = pressed c f i := by
  cases hlow : c.activeLow <;> simp [pressed, inverted, hlow, h]

theorem testBit_assemble_inverted {m m' : Nat} (h : ∀ i, i < c.snapW → m'.testBit i = !m.testBit i) {i : Nat}
    (hi : i < c.snapW) : (assemble (inverted c) m').testBit i = !(assemble c m).testBit i := by
  rw [testBit_assemble c m i hi, testBit_assemble (inverted c) m' i hi]
  by_cases hrow : i < c.nRows * c.nCols
  · rw [if_pos hrow, if_pos (show i < (inverted c).nRows * (inverted c).nCols from hrow), h i hi]
  · rw [if_neg hrow, if_neg (show ¬ i < (inverted c).nRows * (inverted c).nCols from hrow)]
    rfl

theorem selectedStep_inverted (h : ∀ i, i < c.nNoteKeys → pressed (inverted c) f' i = pressed c f i) :
    selectedStep (inverted c) f' = selectedStep c f := by
  have hkey : selectedKey (inverted c) f' = selectedKey c f :=
    List.foldl_ext _ _ _ fun _ i hi => by rw [h i (List.mem_range.mp hi)]
  rw [selectedStep, hkey]
  rfl

theorem edgeMask_inverted (h : ∀ i, i < c.nNoteKeys → pressed (inverted c) f' i = pressed c f i)
    (hp : ∀ i, i < c.nNoteKeys → pressed (inverted c) p' i = pressed c p i) :
    edgeMask (inverted c) f' p' = edgeMask c f p := by
  refine Nat.eq_of_testBit_eq fun i => ?_
  rw [testBit_edgeMask, testBit_edgeMask]
  by_cases hi : i < c.nNoteKeys
  · rw [h i hi, hp i hi]
    rfl
  · rw [decide_eq_false hi, decide_eq_false (show ¬ i < (inverted c).nNoteKeys from hi)]
    rfl

end Polarity

/-- A legal configuration samples every note key (R9). -/
theorem nNoteKeys_le_snapW {c : Config} (hl : legal c = true) : c.nNoteKeys ≤ c.snapW := by
  simp only [legal, geometryLegal, Bool.and_eq_true, decide_eq_true_eq] at hl
  omega

/-- Settles O31: inverted levels are the same pressed keys under the other polarity (`pressed_inverted`), on which alone
the step size and the edges depend. -/
theorem polarityOnlyThroughPressed : Obligations.PolarityOnlyThroughPressed := by
  intro s s' m m' t t' hcfg hh hh' hb hb' hl hlevels hprev hx hx'
  have hcfg' : s'.cfg = inverted s.cfg := hcfg
  have hl' : legal s'.cfg = true := by rw [hcfg']; exact hl
  cases hx.symm.trans (exec_scanCapture_idle m hl hh hb)
  cases hx'.symm.trans (exec_scanCapture_idle m' hl' hh' hb')
  have hfresh (i : Nat) (hi : i < s.cfg.nNoteKeys) :
      pressed (inverted s.cfg) (assemble (inverted s.cfg) m') i = pressed s.cfg (assemble s.cfg m) i :=
    pressed_inverted (testBit_assemble_inverted hlevels (hi.trans_le (nNoteKeys_le_snapW hl)))
  have hold (i : Nat) (hi : i < s.cfg.nNoteKeys) :
      pressed (inverted s.cfg) s'.scPrev i = pressed s.cfg s.scPrev i := pressed_inverted (hprev i hi)
  rw [State.capture_scStep, State.capture_scStep, State.capture_scEmit, State.capture_scEmit, State.capture_scFresh,
    State.capture_scFresh, hcfg']
  exact ⟨selectedStep_inverted hfresh, edgeMask_inverted hfresh hold⟩

/-! ### TX_ENQ is the SCAN_EMIT that pushes its frame (R270, R271) -/

/-- With room, the emit of the lowest pending key pushes that key's frame and clears its bit. -/
theorem State.emit_of_lowest {s : State} {i e : Nat} (hbit : s.scEmit.testBit i = true)
    (hlow : ∀ j, j < i → s.scEmit.testBit j = false)
    (he : ∀ j, e.testBit j = (s.scEmit.testBit j && decide (j ≠ i))) :
    s.emitFrame = some (keyFrame s.cfg s.scFresh i) ∧
      s.emit = { s with scEmit := e, txq := s.txq ++ [keyFrame s.cfg s.scFresh i] } := by
  rcases s.emit_cases with ⟨hzero, -, -⟩ | ⟨k, hbitk, hlowk, hframe, hemit⟩
  · simp [hzero] at hbit
  · obtain rfl : k = i := by
      rcases Nat.lt_trichotomy k i with hlt | heq | hgt
      · simp [hlow k hlt] at hbitk
      · exact heq
      · simp [hlowk i hgt] at hbit
    obtain rfl : e = s.scEmit ^^^ 2 ^ k :=
      Nat.eq_of_testBit_eq fun j => (he j).trans (testBit_clear _ k j hbit).symm
    exact ⟨hframe, hemit⟩

/-- Settles O38: the row is enabled exactly where SCAN_EMIT is and pushes its frame, the one of the lowest pending key
(`State.emit_of_lowest`). -/
theorem txEnqEffect : Obligations.TxEnqEffect := by
  intro s f hl hh
  refine ⟨fun i e hb hroom hbit hlow he => ?_, fun hwait => State.gate_run_hold _ hl (Bool.eq_false_iff.mpr fun hen => ?_)⟩
  · obtain ⟨hframe, hemit⟩ := State.emit_of_lowest hbit hlow he
    have hen : s.emitEnabled = true :=
      (State.emitEnabled_iff hh).mpr ⟨hb, fun hzero => by simp [hzero] at hbit, hroom⟩
    refine ⟨fun hf => ?_, fun hf => State.gate_run_hold _ hl ?_⟩
    · have hrow : exec (.txEnq f) s = .next s.emit :=
        State.gate_run_enabled _ hl (by simp [State.txEnqEnabled, hen, hframe, hf])
      have hevent : exec .scanEmit s = .next s.emit := State.gate_run_enabled _ hl hen
      exact ⟨by rw [hrow, hemit, hf], hevent.trans hrow.symm⟩
    · simp [State.txEnqEnabled, hframe, Ne.symm hf]
  · simp only [State.txEnqEnabled, Bool.and_eq_true] at hen
    obtain ⟨hb, he, hroom⟩ := (State.emitEnabled_iff hh).mp hen.1
    rcases hwait with hidle | hzero | hfull
    · simp [hb] at hidle
    · exact he hzero
    · exact hroom hfull

/-! ### The first steps after reset (R412) -/

section FirstSteps

variable {c : Config}

/-- A legal class table makes the transition from 00 to 11 a SKIP (R141 (a)). -/
theorem transClass_rest (hl : legal c = true) : transClass c 0b00#2 0b11#2 = .skip := by
  simp only [legal, qdClassLegal, Bool.and_eq_true, beq_iff_eq] at hl
  obtain ⟨⟨⟨⟨-, ⟨⟨⟨-, hskip, -⟩, -⟩, -⟩, -⟩, -⟩, -⟩, -⟩ := hl
  exact hskip

/-- No key is pressed in the snapshot of reset (R14). -/
theorem pressed_allReleased {i : Nat} (hi : i < c.snapW) : pressed c (allReleased c) i = false := by
  cases hlow : c.activeLow <;> simp [pressed, testBit_allReleased, releasedLevel, hi, hlow]

/-- The phase 0 gives the least centered sample, and the least rotation shifts it down to -1. -/
theorem sampleOf_zero (hbits : c.sampleBits = 8) (hvol : c.maxVolume = 8) : sampleOf c 0 0 = -1 := by
  simp [sampleOf, asr, centered, rawSample, volumeShift, hbits, hvol]

end FirstSteps

/-- Settles O17: reset's previous snapshot has no key pressed (`pressed_allReleased`), each of its knobs is at 00 with
direction +1 and rotation 0, and its phase and step size are 0. -/
theorem firstStepsAfterReset : Obligations.FirstStepsAfterReset := by
  intro c u hl hi
  have hh : (State.resetWith c u).halted = false := by simp [State.resetWith, hi]
  have hvol : c.volKnob < c.nKnobs := by
    simp only [legal, knobsLegal, Bool.and_eq_true, decide_eq_true_eq] at hl
    omega
  have hknob {k : Nat} (hk : k < c.nKnobs) : (State.resetWith c u).knobs[k]? = some Knob.reset := by
    simp [State.resetWith, hk]
  refine ⟨fun m => ⟨_, exec_scanCapture_idle m hl hh rfl, fun i hkey => ?_, fun k hk hcode => ?_⟩,
    _, exec_sampleTick hl hh, Nat.zero_mod _, fun hbits hvolume => ?_⟩
  · have hprev : pressed c (State.resetWith c u).scPrev i = false :=
      pressed_allReleased (hkey.trans_le (nNoteKeys_le_snapW hl))
    have hcfg : (State.resetWith c u).cfg = c := rfl
    rw [State.capture_scEmit, testBit_edgeMask, hcfg, hprev, decide_eq_true hkey]
    simp
  · have hmoved := State.capture_knob (s := State.resetWith c u) m hk (hknob hk)
    have hcfg : (State.resetWith c u).cfg = c := rfl
    rw [hcfg, hcode, Knob.step_eq] at hmoved
    rw [State.getRotation_of_getElem hmoved]
    simpa [Knob.reset, transClass_rest hl] using constrainRotation_add (c := c) (r := 0) c.qdSkipWeight
  · have hphase : nextPhase c 0 0 = 0 := Nat.zero_mod _
    have hrot : (State.resetWith c u).getRotation c.volKnob = 0 := State.getRotation_of_getElem (hknob hvol)
    have hout : (State.resetWith c u).sample.audioOut = -1 :=
      calc (State.resetWith c u).sample.audioOut
        _ = sampleOf c (nextPhase c 0 0) ((State.resetWith c u).getRotation c.volKnob) := rfl
        _ = sampleOf c 0 0 := by rw [hphase, hrot]
        _ = -1 := sampleOf_zero hbits hvolume
    refine ⟨hout, ?_⟩
    rw [State.dacCode, hout, show (State.resetWith c u).sample.cfg = c from rfl, hbits]
    norm_num

end Sys2Proof.Machine

/-! PROOFS. The statements of 43_synth.md about samples (R233, R235, R237), of 44_bus_tx.md, 45_bus_rx.md and
47_environment.md about single operations (R276, R310 to R314, R341, R423), and of 60_exceptions.md about the interrupt
bodies (R371, R379). -/

namespace Sys2Proof.Machine

/-! ### Samples (R233, R237) -/

/-- Settles O33: the sample of any phase at any rotation is in the register's range (`sampleOf_range`), and the port code
is that range moved up by its lower end. -/
theorem sampleStaysInRange : Obligations.SampleStaysInRange := by
  intro s t hl hh hx
  cases hx.symm.trans (exec_sampleTick hl hh)
  have hsynth := synthLegal_of_legal hl
  obtain ⟨hlow, hhigh⟩ := sampleOf_range hsynth (Nat.mod_lt (s.synPhase + s.ssStep) (Nat.two_pow_pos s.cfg.phaseW))
    (s.getRotation s.cfg.volKnob)
  have hlow' : -(2 : Int) ^ (s.cfg.sampleBits - 1) ≤ s.sample.audioOut := hlow
  have hhigh' : s.sample.audioOut ≤ (2 : Int) ^ (s.cfg.sampleBits - 1) - 1 := hhigh
  have hdac : s.sample.dacCode = s.sample.audioOut + (2 : Int) ^ (s.cfg.sampleBits - 1) := rfl
  have hdouble : (2 : Int) ^ s.cfg.sampleBits = 2 * 2 ^ (s.cfg.sampleBits - 1) := by
    simp only [synthLegal, Bool.and_eq_true, decide_eq_true_eq] at hsynth
    rw [← pow_succ', Nat.sub_add_cancel hsynth.1.1]
  exact ⟨hlow', hhigh', by omega, by omega⟩

/-- `n` ticks iterate the phase addition with the step size they leave as it was. -/
theorem runAll_ticks (n : Nat) {s : State} (hl : legal s.cfg = true) (hh : s.halted = false) :
    ∃ t, runAll (List.replicate n .sampleTick) s = some t ∧
      t.synPhase = (fun p => nextPhase s.cfg p s.ssStep)^[n] s.synPhase ∧ t.ssStep = s.ssStep := by
  induction n generalizing s with
  | zero => exact ⟨s, rfl, rfl, rfl⟩
  | succ n ih =>
    obtain ⟨t, hrun, hphase, hstep⟩ := ih (s := s.sample) hl hh
    exact ⟨t, (runAll_cons (exec_sampleTick hl hh)).trans hrun, hphase, hstep⟩

/-- Settles O34: the run iterates the phase addition (`runAll_ticks`), whose closed form is `nextPhase_iterate`. -/
theorem phaseAfterTicks : Obligations.PhaseAfterTicks := by
  intro s n hl hh hphase
  obtain ⟨t, hrun, hiter, hstep⟩ := runAll_ticks n hl hh
  exact ⟨t, hrun, hiter.trans (nextPhase_iterate s.cfg s.ssStep n hphase), hstep⟩

/-- Settles O35: both samples are of the same phase, and the magnitude follows the rotation (`sampleOf_natAbs_le`). -/
theorem lowerRotationIsNotLouder : Obligations.LowerRotationIsNotLouder := by
  intro s s' t t' hl hcfg hh hh' hphase hstep hrot hx hx'
  cases hx.symm.trans (exec_sampleTick hl hh)
  cases hx'.symm.trans (exec_sampleTick (hcfg ▸ hl) hh')
  rw [State.sample_eq, State.sample_eq, hcfg, hphase, hstep]
  exact sampleOf_natAbs_le rfl hrot

/-- Settles O36: a tick completes with `State.sample_frame`, or, of a halted block, holds. -/
theorem sampleWritesOnlyPhaseAndOutput : Obligations.SampleWritesOnlyPhaseAndOutput := by
  intro s hl
  have hhold (hh : s.halted = true) : exec .sampleTick s = .next s :=
    exec_hold rfl hl (show s.eventEnabled = false by simp [State.eventEnabled, hh])
  refine ⟨?_, hhold⟩
  by_cases hh : s.halted = true
  · exact ⟨s, hhold hh, rfl⟩
  · exact ⟨s.sample, exec_sampleTick hl (Bool.eq_false_iff.mpr hh), s.sample_frame⟩

/-- Settles O37: a capture leaves the phase, the store pair and the configuration (`State.capture_frame`), so the tick
after it adds the old step size; the rotation is the captured state's own. -/
theorem sampleInsideCycle : Obligations.SampleInsideCycle := by
  intro s u t m hl hh hb hcapture hsample
  cases hcapture.symm.trans (exec_scanCapture_idle m hl hh hb)
  have hframe := s.capture_frame m
  have hcfg := s.capture_cfg m
  have hphase : (s.capture m).synPhase = s.synPhase := by rw [hframe]
  have hstep : (s.capture m).ssStep = s.ssStep := by rw [hframe]
  cases hsample.symm.trans (exec_sampleTick (hcfg ▸ hl) ((s.capture_halted m).trans hh))
  rw [State.sample_eq, hcfg, hphase, hstep]
  exact ⟨rfl, rfl⟩

/-! ### TX_ISSUE and RX_DEQ (R276, R314) -/

theorem State.txIssueEnabled_iff {s : State} (hh : s.halted = false) :
    s.txIssueEnabled = true ↔ s.txHoldValid = true ∧ s.mboxAvail ≠ 0 := by
  simp [State.txIssueEnabled, State.mboxNone, hh]

/-- Settles O40: a held frame and a free mailbox are TX_ISSUE's enabling (`State.txIssueEnabled_iff`); the model leaves
the frame register as it was. -/
theorem txIssueEffect : Obligations.TxIssueEffect := by
  intro s hl hh
  refine ⟨fun hv hm => ⟨s.txHoldFrame, ?_⟩, fun hwait => exec_hold rfl hl (Bool.eq_false_iff.mpr fun hen => ?_)⟩
  · have hen : enabled .txIssue s = true := (State.txIssueEnabled_iff hh).mpr ⟨hv, hm.ne'⟩
    exact exec_enabled rfl hl hen
  · obtain ⟨hv, hm⟩ := (State.txIssueEnabled_iff hh).mp hen
    rcases hwait with hfree | hnone
    · simp [hv] at hfree
    · exact hm hnone

/-- Settles O47: a head enables the pop, whose effect is `State.dequeueRx_cons`, and an empty queue holds it. -/
theorem rxDeqEffect : Obligations.RxDeqEffect := by
  intro s hl hh
  refine ⟨fun f q hq => ?_, fun hq => exec_hold rfl hl (State.rxDeqEnabled_of_nil hq)⟩
  have hx : exec .rxDeq s = .next s.dequeueRx := exec_enabled rfl hl (State.rxDeqEnabled_of_cons hh hq)
  exact hx.trans (congrArg _ (State.dequeueRx_cons hq))

/-! ### RX_FRAME (R310, R312, R313) -/

/-- What RX_FRAME makes of a state under a legal configuration. -/
def State.rxStep (s : State) (a : Arrival) (data : List Byte) : State :=
  if data.length = s.cfg.frameBytes then
    if s.rxEnabled a.origin ⟨a.id, data⟩ then s.arrive a.origin ⟨a.id, data⟩ else s
  else s.markRefused

section RxStep

variable {s : State} {a : Arrival} {data : List Byte}

theorem exec_rxFrame (hl : legal s.cfg = true) : exec (.rxFrame a data) s = .next (s.rxStep a data) := by
  rw [exec, execRxFrame, State.onPayload, State.gate, if_pos hl, State.run, State.rxStep]
  split_ifs <;> rfl

theorem exec_rxFrame_badPayload (hlen : data.length ≠ s.cfg.frameBytes) :
    exec (.rxFrame a data) s = .next s.markRefused := by
  rw [exec, execRxFrame, State.onPayload, if_neg hlen]

theorem State.rxStep_of_enabled (hlen : data.length = s.cfg.frameBytes)
    (he : s.rxEnabled a.origin ⟨a.id, data⟩ = true) : s.rxStep a data = s.arrive a.origin ⟨a.id, data⟩ := by
  rw [State.rxStep, if_pos hlen, if_pos he]

theorem State.rxStep_of_disabled (hlen : data.length = s.cfg.frameBytes)
    (he : s.rxEnabled a.origin ⟨a.id, data⟩ = false) : s.rxStep a data = s := by
  rw [State.rxStep, if_pos hlen, he, if_neg Bool.false_ne_true]

theorem State.rxEnabled_own_iff {f : Frame} (hh : s.halted = false) :
    s.rxEnabled .own f = true ↔ s.cfg.loopback = true ∧ f ∈ s.ownPending := by
  simp [State.rxEnabled, State.eventEnabled, hh]

end RxStep

/-- Settles O45: a payload of another length is refused (`exec_rxFrame_badPayload`); an own frame that may not arrive
waits; a frame that arrives has the three forms of `State.arrive_cases`, the drop counted by `saturating_succ_toNat`. -/
theorem rxFrameEffect : Obligations.RxFrameEffect := by
  intro s o id data
  refine ⟨exec_rxFrame_badPayload, fun hlen hl hh => ⟨fun ho hno => ?_, fun p hp => ?_⟩⟩
  · subst ho
    have hdis : s.rxEnabled .own ⟨id, data⟩ = false := by
      refine Bool.eq_false_iff.mpr fun hen => ?_
      obtain ⟨hloop, hmem⟩ := (State.rxEnabled_own_iff hh).mp hen
      rcases hno with hoff | hnot
      · simp [hloop] at hoff
      · exact hnot hmem
    rw [exec_rxFrame hl, State.rxStep_of_disabled hlen hdis]
  · have hen : s.rxEnabled o ⟨id, data⟩ = true := by
      rcases hp with ⟨rfl, -⟩ | ⟨rfl, hloop, hmem, -⟩
      · exact State.eventEnabled_of_not_halted hh
      · exact (State.rxEnabled_own_iff hh).mpr ⟨hloop, hmem⟩
    rw [exec_rxFrame hl, State.rxStep_of_enabled hlen hen]
    obtain ⟨p', hp', harr⟩ := s.arrive_cases o ⟨id, data⟩
    obtain rfl : p' = p := by
      rcases hp with ⟨rfl, rfl⟩ | ⟨rfl, -, -, rfl⟩ <;> simpa using hp'
    rcases harr with ⟨hid, harr⟩ | ⟨hid, hfull, harr⟩ | ⟨hid, hfull, harr⟩
    · exact ⟨fun _ => congrArg _ harr, fun h => absurd h hid, fun h => absurd h hid⟩
    · have hroom : s.rxq.length ≠ s.cfg.rxqCap := by simpa [State.rxFull, full] using hfull
      exact ⟨fun h => absurd hid h, fun _ _ => congrArg _ harr, fun _ h => absurd h hroom⟩
    · have hnoRoom : s.rxq.length = s.cfg.rxqCap := by simpa [State.rxFull, full] using hfull
      exact ⟨fun h => absurd hid h, fun _ h => absurd hnoRoom h,
        fun _ _ => ⟨_, congrArg _ harr, saturating_succ_toNat _⟩⟩

/-! ### The message decoder (R341, R423) -/

section Decoding

variable {s : State} {f : Frame} {q : List Frame}

theorem exec_mdStep (hl : legal s.cfg = true) (hh : s.halted = false) (hq : s.rxq = f :: q) :
    exec .mdStep s = .next s.decodeNext :=
  exec_enabled rfl hl (State.rxDeqEnabled_of_cons hh hq)

theorem State.decodesEnabled_of_cons (hh : s.halted = false) (hq : s.rxq = f :: q) :
    s.decodesEnabled f.data = true := by
  simp [State.decodesEnabled, State.rxDeqEnabled_of_cons hh hq, head, hq]

theorem State.decodesEnabled_of_other {data : List Byte} (h : ∀ f, s.rxq.head? = some f → f.data ≠ data) :
    s.decodesEnabled data = false := by
  cases hq : s.rxq.head? with
  | none => simp [State.decodesEnabled, head, hq]
  | some f => simp [State.decodesEnabled, head, hq, h f hq]

end Decoding

/-- Settles O51: a frame-kind row is enabled exactly by its frame at the head (`State.decodesEnabled_of_cons`,
`State.decodesEnabled_of_other`), and decodes it as MD_STEP does. -/
theorem frameKindEffect : Obligations.FrameKindEffect := by
  intro s o n r3 r4 r5 r6 l hl hh
  refine ⟨fun id q hq => ?_, fun id q hq => ?_, fun hother => ?_, fun hother => ?_⟩
  · have hrow : exec (.framePress o n r3 r4 r5 r6 l) s = .next s.decodeNext :=
      State.gate_run_enabled _ hl (State.decodesEnabled_of_cons hh hq)
    refine ⟨hrow.trans (exec_mdStep hl hh hq).symm, fun hnote => ?_, fun hnote => ?_⟩
    · obtain ⟨v, hv⟩ := exists_stepTable_entry hl hnote
      exact ⟨v, hv, hrow.trans (congrArg _ (State.decodeNext_of_some hq
        ((decodedStep_press_of_le s.cfg id o n _ hnote).trans hv)))⟩
    · exact hrow.trans (congrArg _ (State.decodeNext_of_none hq (decodedStep_press_of_gt s.cfg id o n _ hnote)))
  · have hrow : exec (.frameRelease o n r3 r4 r5 r6 l) s = .next s.decodeNext :=
      State.gate_run_enabled _ hl (State.decodesEnabled_of_cons hh hq)
    exact ⟨hrow.trans (exec_mdStep hl hh hq).symm,
      hrow.trans (congrArg _ (State.decodeNext_of_some hq (decodedStep_release s.cfg id o n _)))⟩
  · exact State.gate_run_hold _ hl (State.decodesEnabled_of_other hother)
  · exact State.gate_run_hold _ hl (State.decodesEnabled_of_other hother)

/-- The step size a frame names depends on its kind and its note alone (R106, R108). -/
theorem decodedStep_of_kind_note (c : Config) (id id' : Nat) (kind octave octave' note : Byte) (r r' : List Byte) :
    decodedStep c ⟨id', kind :: octave' :: note :: r'⟩ = decodedStep c ⟨id, kind :: octave :: note :: r⟩ := rfl

/-- Settles O52: the two frames name the same step size (`decodedStep_of_kind_note`), and both runs write it or ignore
the frame alike. -/
theorem octaveAndReservedIgnored : Obligations.OctaveAndReservedIgnored := by
  intro s t t' id id' kind octave octave' note r r' q hl hh hq hx hx'
  cases hx.symm.trans (exec_mdStep hl hh hq)
  cases hx'.symm.trans (exec_mdStep (s := { s with rxq := _ }) hl hh rfl)
  have hsame := decodedStep_of_kind_note s.cfg id id' kind octave octave' note r r'
  cases hv : decodedStep s.cfg ⟨id, kind :: octave :: note :: r⟩ with
  | some v =>
    rw [State.decodeNext_of_some hq hv, State.decodeNext_of_some (s := { s with rxq := _ }) rfl (hsame.trans hv)]
    exact ⟨rfl, rfl, rfl⟩
  | none =>
    rw [State.decodeNext_of_none hq hv, State.decodeNext_of_none (s := { s with rxq := _ }) rfl (hsame.trans hv)]
    exact ⟨rfl, rfl, rfl⟩

/-- Settles O54: MD_STEP leaves the scanner (`State.decodeNext_frame`), so the commit is still enabled and publishes the
cycle's own pair. -/
theorem commitOverwritesReceivedStep : Obligations.CommitOverwritesReceivedStep := by
  intro s hl hh hb he hne
  obtain ⟨f, q, hq⟩ := List.exists_cons_of_ne_nil hne
  have hframe := State.decodeNext_frame hq
  have hfresh : s.decodeNext.scFresh = s.scFresh := by rw [hframe]
  have hstep : s.decodeNext.scStep = s.scStep := by rw [hframe]
  have hcommit := commitEffect s.decodeNext (by rw [hframe]; exact hl) (by rw [hframe]; exact hh)
    (by rw [hframe]; exact hb) (by rw [hframe]; exact he)
  exact ⟨_, (runAll_cons (exec_mdStep hl hh hq)).trans (runAll_cons hcommit), hstep, hfresh⟩

/-! ### The interrupt bodies (R371, R379) -/

section Interrupts

variable {s : State}

theorem exec_txDone (hl : legal s.cfg = true) (hh : s.halted = false) : exec .txDone s = .next s.complete :=
  exec_enabled rfl hl (State.eventEnabled_of_not_halted hh)

/-- The steps an event alone enables hold while the block is halted. -/
theorem exec_event_halted (hl : legal s.cfg = true) (hh : s.halted = true) :
    exec .sampleTick s = .next s ∧ exec .txDone s = .next s := by
  have hdis : s.eventEnabled = false := by simp [State.eventEnabled, hh]
  exact ⟨exec_hold rfl hl hdis, exec_hold rfl hl hdis⟩

/-- Two steps that meet in one state commute. -/
theorem runAll_pair_comm {i j : Instr} {a b c : State} (hi : exec i s = .next a) (hj : exec j s = .next b)
    (hij : exec j a = .next c) (hji : exec i b = .next c) : runAll [i, j] s = runAll [j, i] s := by
  rw [runAll_cons hi, runAll_cons hij, runAll_cons hj, runAll_cons hji]

/-- Under an illegal configuration any two steps only mark, twice. -/
theorem runAll_pair_illegal (i j : Instr) (hl : legal s.cfg = false) : runAll [i, j] s = runAll [j, i] s :=
  runAll_pair_comm (exec_illegal i hl) (exec_illegal j hl) (exec_illegal j hl) (exec_illegal i hl)

/-- A reception reads and writes nothing that a sample or a completion does. -/
theorem State.rxStep_effect {i : Instr} (hi : i = .sampleTick ∨ i = .txDone) (a : Arrival) (data : List Byte) :
    (effect i s).rxStep a data = effect i (s.rxStep a data) := by
  have hreceive (u : State) (f : Frame) : (effect i u).receive f = effect i (u.receive f) := by
    rw [State.receive, State.receive, apply_ite (effect i), apply_ite (effect i)]
    rcases hi with rfl | rfl <;> rfl
  have harrive (o : Origin) (f : Frame) : (effect i s).arrive o f = effect i (s.arrive o f) := by
    cases o with
    | peer => exact hreceive s f
    | own => rcases hi with rfl | rfl <;> exact hreceive (s.takeOwn f) f
  rw [State.rxStep, State.rxStep, apply_ite (effect i), apply_ite (effect i), harrive]
  rcases hi with rfl | rfl <;> rfl

theorem State.rxStep_fixed (hl : legal s.cfg = true) (a : Arrival) (data : List Byte) :
    (s.rxStep a data).cfg = s.cfg ∧ (s.rxStep a data).halted = s.halted :=
  ⟨(exec_writes (exec_rxFrame hl)).cfg_eq, (exec_writes (exec_rxFrame hl)).halted_eq⟩

end Interrupts

/-- Settles O56: under an illegal configuration all three only mark; of a halted block a tick and a completion hold, before
and after a reception; else each pair meets in one state, as the bodies touch disjoint elements (`State.rxStep_effect`). -/
theorem interruptBodiesCommute : Obligations.InterruptBodiesCommute := by
  intro s o id data
  cases hl : legal s.cfg with
  | false => exact ⟨runAll_pair_illegal _ _ hl, runAll_pair_illegal _ _ hl, runAll_pair_illegal _ _ hl⟩
  | true =>
    have hrx : exec (.rxFrame ⟨o, id⟩ data) s = .next (s.rxStep ⟨o, id⟩ data) := exec_rxFrame hl
    obtain ⟨hcfg, hhalted⟩ := State.rxStep_fixed hl ⟨o, id⟩ data
    have hl' : legal (s.rxStep ⟨o, id⟩ data).cfg = true := hcfg ▸ hl
    cases hh : s.halted with
    | true =>
      obtain ⟨htick, hdone⟩ := exec_event_halted hl hh
      obtain ⟨htick', hdone'⟩ := exec_event_halted hl' (hhalted.trans hh)
      exact ⟨runAll_pair_comm htick hrx hrx htick', runAll_pair_comm htick hdone hdone htick,
        runAll_pair_comm hdone hrx hrx hdone'⟩
    | false =>
      have htick := exec_sampleTick hl hh
      have hdone := exec_txDone hl hh
      have hh' := hhalted.trans hh
      have hrxTick : exec (.rxFrame ⟨o, id⟩ data) s.sample = .next (s.rxStep ⟨o, id⟩ data).sample :=
        (exec_rxFrame (s := s.sample) hl).trans (congrArg _ (State.rxStep_effect (i := .sampleTick) (.inl rfl) _ _))
      have hrxDone : exec (.rxFrame ⟨o, id⟩ data) s.complete = .next (s.rxStep ⟨o, id⟩ data).complete :=
        (exec_rxFrame (s := s.complete) hl).trans (congrArg _ (State.rxStep_effect (i := .txDone) (.inr rfl) _ _))
      exact ⟨runAll_pair_comm htick hrx hrxTick (exec_sampleTick hl' hh'),
        runAll_pair_comm htick hdone (exec_txDone (s := s.sample) hl hh) (exec_sampleTick (s := s.complete) hl hh),
        runAll_pair_comm hdone hrx hrxDone (exec_txDone hl' hh')⟩

/-- A reception raises nothing but RxOverrun, and leaves the mark. -/
theorem State.arrive_raises (s : State) (o : Origin) (f : Frame) :
    (s.arrive o f).refused = s.refused ∧ (s.arrive o f).halted = s.halted ∧
      .refused ∉ (s.arrive o f).raised.drop s.raised.length := by
  obtain ⟨p, -, ⟨-, harr⟩ | ⟨-, -, harr⟩ | ⟨-, -, harr⟩⟩ := s.arrive_cases o f <;> simp [harr]

/-- Settles O57: each of the three answers in any state (`exec_answers`, `State.onPayload_next`), and of a block that is
not halted each completes without the mark. -/
theorem interruptStepsAreTotal : Obligations.InterruptStepsAreTotal := by
  intro s o id data
  refine ⟨fun i hi => ?_, fun hl hh hlen i hi => ?_⟩
  · simp only [List.mem_cons, List.not_mem_nil, or_false] at hi
    rcases hi with rfl | rfl | rfl
    · exact exec_answers s _ rfl
    · exact exec_answers s _ rfl
    · exact State.onPayload_next _ _ _ _
  · have hen : s.eventEnabled = true := State.eventEnabled_of_not_halted hh
    simp only [List.mem_cons, List.not_mem_nil, or_false] at hi
    rcases hi with rfl | rfl | rfl
    · exact ⟨hen, s.sample, exec_sampleTick hl hh, rfl, hh, by simp [State.sample]⟩
    · exact ⟨hen, s.complete, exec_txDone hl hh, rfl, hh, by simp [State.complete]⟩
    · obtain ⟨href, hhalted, hraised⟩ := s.arrive_raises .peer ⟨id, data⟩
      refine ⟨by simp [enabled, State.rxEnabled, hen], s.arrive .peer ⟨id, data⟩, ?_, href, hhalted.trans hh, hraised⟩
      rw [exec_rxFrame hl, State.rxStep_of_enabled (a := ⟨.peer, id⟩) hlen hen]

end Sys2Proof.Machine
